-- ==== Sys2Proof/Word.lean ====
section
/-! DEFINITION. The plain data units of the block (spec/00_scope.md R7, R8; spec/10_state.md R21, R29). -/

namespace Sys2Proof

/-- The native operand, 256 bits; bit 0 is the least significant (R7, R8, R21). -/
abbrev Word := BitVec 256

/-- One byte of code, memory, calldata or returndata. -/
abbrev Byte := BitVec 8

/-- An account address, 20 bytes (R7, R29). -/
abbrev Address := BitVec 160

end Sys2Proof
end

