-- ==== Sys2Proof/Machine/Bits.lean ====
section
/-! DEFINITION. Readings of a Word and the byte-order helpers (spec/00_scope.md R8 to R10, spec/20_memory.md R68).

`u(w)` of the spec is `w.toNat` and `s(w)` is `w.toInt` (R9). -/

namespace Sys2Proof.Machine

/-- `W(n)` for a natural number: the Word whose unsigned value is n mod 2^256 (R9). -/
def wordOfNat (n : Nat) : Word := BitVec.ofNat 256 n

/-- `W(n)` for any integer: a negative one maps to its twos-complement Word (R9). -/
def wordOfInt (n : Int) : Word := BitVec.ofInt 256 n

/-- The number a byte sequence holds, most significant byte first: the sum of `bytes[i] * 256^(n-1-i)` (R68,
spec/30_encoding.md R92). -/
def bytesToNat (bytes : List Byte) : Nat := bytes.foldl (fun acc b => acc * 256 + b.toNat) 0

/-- A byte sequence as a Word, zero-padded on the left (R10, R68, R92). -/
def wordOfBytes (bytes : List Byte) : Word := wordOfNat (bytesToNat bytes)

/-- The n low bytes of a number, most significant first. -/
def natToBytes : Nat → Nat → List Byte
  | 0, _ => []
  | n + 1, v => natToBytes n (v / 256) ++ [BitVec.ofNat 8 v]

/-- `bytes_be(v)`: a Word as its 32-byte big-endian array (R8, R68). -/
def wordToBytes (v : Word) : List Byte := natToBytes 32 v.toNat

end Sys2Proof.Machine
end

