-- ==== Sys2Proof/Config.lean ====
section
/-! DEFINITION. The OPEN parameters of spec/00_scope.md R7, as one record of plain data.

The host fixes every one of them before the first step and none changes during a run (spec/70_reset_and_hazards.md R301,
R302.3; decision D32), so a run's parameters are a field of State that no step writes, and every statement over all states
holds for every value of every parameter (log entry 1). The free values of the external units stand in
Sys2Proof/Machine/Draws.lean, because they are applied to the State. -/

namespace Sys2Proof

/-- The source's eight handler groups, each with one flat gas cost (spec/30_encoding.md R100). -/
inductive GasCategory where
  | arithCompare | memory | storage | environment | controlFlow | logging | callCreate | stackManip
  deriving DecidableEq, Repr

/-- One value per gas category. -/
structure PerCategory (α : Type) where
  arithCompare : α
  memory : α
  storage : α
  environment : α
  controlFlow : α
  logging : α
  callCreate : α
  stackManip : α
  deriving DecidableEq, Repr

/-- The entry of one category. -/
def PerCategory.at {α : Type} (t : PerCategory α) : GasCategory → α
  | .arithCompare => t.arithCompare
  | .memory => t.memory
  | .storage => t.storage
  | .environment => t.environment
  | .controlFlow => t.controlFlow
  | .logging => t.logging
  | .callCreate => t.callCreate
  | .stackManip => t.stackManip

/-- The same value for every category. -/
def PerCategory.all {α : Type} (x : α) : PerCategory α := ⟨x, x, x, x, x, x, x, x⟩

/-- `PUSH0_MODE`: what the byte 0x5F is (spec/30_encoding.md R94, D9). -/
inductive Push0Mode where
  | unassigned | pushZero
  deriving DecidableEq, Repr

/-- `JUMPDEST_ANALYSIS`: whether a 0x5B byte inside PUSH data is a jump target (spec/44_control.md R224, D10). -/
inductive JumpdestAnalysis where
  | excludePushData | rawByte
  deriving DecidableEq, Repr

/-- `DUPSWAP_ERROR`: the error of a DUP or SWAP on too shallow a stack (spec/42_stack.md R182, R183, D14). -/
inductive DupSwapError where
  | stackUnderflow | stackTooDeep
  deriving DecidableEq, Repr

/-- `DEPTH_EXCEEDED_ACTION` (spec/45_frames_external.md R257, D19). -/
inductive DepthExceeded where
  | failFlag | abortStackTooDeep
  deriving DecidableEq, Repr

/-- `INNER_CALLDATA`: the calldata the call unit installs in an inner frame (spec/45_frames_external.md R253, D37). -/
inductive InnerCalldata where
  | empty | input
  deriving DecidableEq, Repr

/-- The OPEN parameters of R7 but `EXT_SEMANTICS` (which is a draw). -/
structure Params where
  /-- `MEM_LIMIT`: the largest end an access may have (spec/20_memory.md R65, D13). R7 and R60 call it the largest memory
  length, which it is when a multiple of 32; otherwise an admitted access may round the length up past it (log entry 30). -/
  memLimit : Nat
  /-- `GAS_COST(cat)` (spec/44_control.md R222, D6). -/
  gasCost : PerCategory Nat
  /-- `GAS_DEBIT(cat)` (spec/44_control.md R223, D5). -/
  gasDebit : PerCategory Bool
  /-- `MAX_CALL_DEPTH`; `none` is `unbounded` (spec/45_frames_external.md R257, D19). -/
  maxCallDepth : Option Nat
  depthExceeded : DepthExceeded
  push0Mode : Push0Mode
  jumpdestAnalysis : JumpdestAnalysis
  dupSwapError : DupSwapError
  /-- `STOP_CLEARS_RETURNDATA` (spec/44_control.md R225, D16). -/
  stopClearsReturndata : Bool
  /-- `REVERT_SETS_RETURNDATA` (spec/44_control.md R232, D17). -/
  revertSetsReturndata : Bool
  /-- `EXT_OPCODES`, each byte with its `EXT_CATEGORY` (spec/30_encoding.md R98, R100, D22, D23). -/
  extOpcodes : List (Byte × GasCategory)
  /-- `NOT_IMPL_OPCODES` (spec/30_encoding.md R99, D22). -/
  notImplOpcodes : List Byte
  innerCalldata : InnerCalldata
  /-- `NOCODE_OK`: the flag a call to a code-less target receives (spec/45_frames_external.md R254, D38). -/
  nocodeOk : Bool
  deriving DecidableEq, Repr

/-- The 15 external opcodes the spec names, at their conventional bytes (spec/30_encoding.md R98), with a category each (log entry 27).
DESIGN CHOICE (log entry 2): the spec leaves the set and the categories open. -/
def namedExtOpcodes : List (Byte × GasCategory) :=
  [(0x35, .environment), (0x54, .storage), (0x55, .storage)]
  ++ [(0xA0, .logging), (0xA1, .logging), (0xA2, .logging), (0xA3, .logging), (0xA4, .logging)]
  ++ [(0xF0, .callCreate), (0xF1, .callCreate), (0xF2, .callCreate), (0xF4, .callCreate), (0xF5, .callCreate)]
  ++ [(0xFA, .callCreate), (0xFF, .callCreate)]

/-- The parameter values of State.reset. DESIGN CHOICE, unsafe (log entry 2): the spec fixes none. Those that
spec/95_test_vectors.md gives as its conventions are taken from it, but for PUSH0_MODE and EXT_OPCODES, which are set so
that every row of the opcode table is an instruction of the machine. No statement rests on them. -/
def Params.atReset : Params where
  memLimit := 2 ^ 32
  gasCost := .all 1
  gasDebit := .all false
  maxCallDepth := none
  depthExceeded := .failFlag
  push0Mode := .pushZero
  jumpdestAnalysis := .excludePushData
  dupSwapError := .stackUnderflow
  stopClearsReturndata := false
  revertSetsReturndata := false
  extOpcodes := namedExtOpcodes
  notImplOpcodes := []
  innerCalldata := .empty
  nocodeOk := true

end Sys2Proof
end

