-- ==== Sys2Proof/Syntax.lean ====
section
/-! DEFINITION. The instructions: one constructor per row of spec/opcode_table.json, in the table's order.

Every operand but a PUSH immediate is implicit, taken from the stack (spec/30_encoding.md R90, R104). A PUSH immediate is the
Word it assembles to (R92); WellFormed.lean bounds it by the width of its field. -/

namespace Sys2Proof

/-- The instruction set (spec/30_encoding.md R95, R98). -/
inductive Instr where
  /-- STOP, 0x00, R225. -/
  | stop
  /-- ADD, 0x01, R121. -/
  | add
  /-- MUL, 0x02, R122. -/
  | mul
  /-- SUB, 0x03, R123. -/
  | sub
  /-- DIV, 0x04, R124. -/
  | div
  /-- SDIV, 0x05, R125. -/
  | sdiv
  /-- MOD, 0x06, R126. -/
  | mod
  /-- SMOD, 0x07, R127. -/
  | smod
  /-- ADDMOD, 0x08, R128. -/
  | addmod
  /-- MULMOD, 0x09, R129. -/
  | mulmod
  /-- EXP, 0x0A, R130. -/
  | exp
  /-- SIGNEXTEND, 0x0B, R131. -/
  | signextend
  /-- LT, 0x10, R150. -/
  | lt
  /-- GT, 0x11, R151. -/
  | gt
  /-- SLT, 0x12, R152. -/
  | slt
  /-- SGT, 0x13, R153. -/
  | sgt
  /-- EQ, 0x14, R154. -/
  | eq
  /-- ISZERO, 0x15, R155. -/
  | iszero
  /-- AND, 0x16, R156. -/
  | and
  /-- OR, 0x17, R157. -/
  | or
  /-- XOR, 0x18, R158. -/
  | xor
  /-- NOT, 0x19, R159. -/
  | not
  /-- BYTE, 0x1A, R160. -/
  | byte
  /-- SHL, 0x1B, R161. -/
  | shl
  /-- SHR, 0x1C, R162. -/
  | shr
  /-- SAR, 0x1D, R163. -/
  | sar
  /-- CALLDATALOAD, 0x35, R250. -/
  | calldataload
  /-- POP, 0x50, R184. -/
  | pop
  /-- MLOAD, 0x51, R200. -/
  | mload
  /-- MSTORE, 0x52, R201. -/
  | mstore
  /-- MSTORE8, 0x53, R202. -/
  | mstore8
  /-- SLOAD, 0x54, R250. -/
  | sload
  /-- SSTORE, 0x55, R250. -/
  | sstore
  /-- JUMP, 0x56, R226. -/
  | jump
  /-- JUMPI, 0x57, R227. -/
  | jumpi
  /-- PC, 0x58, R229. -/
  | pc
  /-- MSIZE, 0x59, R203. -/
  | msize
  /-- GAS, 0x5A, R230. -/
  | gas
  /-- JUMPDEST, 0x5B, R228. -/
  | jumpdest
  /-- MCOPY, 0x5E, R204. -/
  | mcopy
  /-- PUSH0, 0x5F, R185. -/
  | push0
  /-- PUSH1, 0x60, R186. -/
  | push1 (imm : Word)
  /-- PUSH2, 0x61, R186. -/
  | push2 (imm : Word)
  /-- PUSH3, 0x62, R186. -/
  | push3 (imm : Word)
  /-- PUSH4, 0x63, R186. -/
  | push4 (imm : Word)
  /-- PUSH5, 0x64, R186. -/
  | push5 (imm : Word)
  /-- PUSH6, 0x65, R186. -/
  | push6 (imm : Word)
  /-- PUSH7, 0x66, R186. -/
  | push7 (imm : Word)
  /-- PUSH8, 0x67, R186. -/
  | push8 (imm : Word)
  /-- PUSH9, 0x68, R186. -/
  | push9 (imm : Word)
  /-- PUSH10, 0x69, R186. -/
  | push10 (imm : Word)
  /-- PUSH11, 0x6A, R186. -/
  | push11 (imm : Word)
  /-- PUSH12, 0x6B, R186. -/
  | push12 (imm : Word)
  /-- PUSH13, 0x6C, R186. -/
  | push13 (imm : Word)
  /-- PUSH14, 0x6D, R186. -/
  | push14 (imm : Word)
  /-- PUSH15, 0x6E, R186. -/
  | push15 (imm : Word)
  /-- PUSH16, 0x6F, R186. -/
  | push16 (imm : Word)
  /-- PUSH17, 0x70, R186. -/
  | push17 (imm : Word)
  /-- PUSH18, 0x71, R186. -/
  | push18 (imm : Word)
  /-- PUSH19, 0x72, R186. -/
  | push19 (imm : Word)
  /-- PUSH20, 0x73, R186. -/
  | push20 (imm : Word)
  /-- PUSH21, 0x74, R186. -/
  | push21 (imm : Word)
  /-- PUSH22, 0x75, R186. -/
  | push22 (imm : Word)
  /-- PUSH23, 0x76, R186. -/
  | push23 (imm : Word)
  /-- PUSH24, 0x77, R186. -/
  | push24 (imm : Word)
  /-- PUSH25, 0x78, R186. -/
  | push25 (imm : Word)
  /-- PUSH26, 0x79, R186. -/
  | push26 (imm : Word)
  /-- PUSH27, 0x7A, R186. -/
  | push27 (imm : Word)
  /-- PUSH28, 0x7B, R186. -/
  | push28 (imm : Word)
  /-- PUSH29, 0x7C, R186. -/
  | push29 (imm : Word)
  /-- PUSH30, 0x7D, R186. -/
  | push30 (imm : Word)
  /-- PUSH31, 0x7E, R186. -/
  | push31 (imm : Word)
  /-- PUSH32, 0x7F, R186. -/
  | push32 (imm : Word)
  /-- DUP1, 0x80, R187. -/
  | dup1
  /-- DUP2, 0x81, R187. -/
  | dup2
  /-- DUP3, 0x82, R187. -/
  | dup3
  /-- DUP4, 0x83, R187. -/
  | dup4
  /-- DUP5, 0x84, R187. -/
  | dup5
  /-- DUP6, 0x85, R187. -/
  | dup6
  /-- DUP7, 0x86, R187. -/
  | dup7
  /-- DUP8, 0x87, R187. -/
  | dup8
  /-- DUP9, 0x88, R187. -/
  | dup9
  /-- DUP10, 0x89, R187. -/
  | dup10
  /-- DUP11, 0x8A, R187. -/
  | dup11
  /-- DUP12, 0x8B, R187. -/
  | dup12
  /-- DUP13, 0x8C, R187. -/
  | dup13
  /-- DUP14, 0x8D, R187. -/
  | dup14
  /-- DUP15, 0x8E, R187. -/
  | dup15
  /-- DUP16, 0x8F, R187. -/
  | dup16
  /-- SWAP1, 0x90, R188. -/
  | swap1
  /-- SWAP2, 0x91, R188. -/
  | swap2
  /-- SWAP3, 0x92, R188. -/
  | swap3
  /-- SWAP4, 0x93, R188. -/
  | swap4
  /-- SWAP5, 0x94, R188. -/
  | swap5
  /-- SWAP6, 0x95, R188. -/
  | swap6
  /-- SWAP7, 0x96, R188. -/
  | swap7
  /-- SWAP8, 0x97, R188. -/
  | swap8
  /-- SWAP9, 0x98, R188. -/
  | swap9
  /-- SWAP10, 0x99, R188. -/
  | swap10
  /-- SWAP11, 0x9A, R188. -/
  | swap11
  /-- SWAP12, 0x9B, R188. -/
  | swap12
  /-- SWAP13, 0x9C, R188. -/
  | swap13
  /-- SWAP14, 0x9D, R188. -/
  | swap14
  /-- SWAP15, 0x9E, R188. -/
  | swap15
  /-- SWAP16, 0x9F, R188. -/
  | swap16
  /-- LOG0, 0xA0, R250. -/
  | log0
  /-- LOG1, 0xA1, R250. -/
  | log1
  /-- LOG2, 0xA2, R250. -/
  | log2
  /-- LOG3, 0xA3, R250. -/
  | log3
  /-- LOG4, 0xA4, R250. -/
  | log4
  /-- CREATE, 0xF0, R250. -/
  | create
  /-- CALL, 0xF1, R250. -/
  | call
  /-- CALLCODE, 0xF2, R250. -/
  | callcode
  /-- RETURN, 0xF3, R231. -/
  | ret
  /-- DELEGATECALL, 0xF4, R250. -/
  | delegatecall
  /-- CREATE2, 0xF5, R250. -/
  | create2
  /-- STATICCALL, 0xFA, R250. -/
  | staticcall
  /-- REVERT, 0xFD, R232. -/
  | revert
  /-- SELFDESTRUCT, 0xFF, R250. -/
  | selfdestruct
  deriving DecidableEq, Repr

end Sys2Proof
end

