-- ==== Sys2Proof/Machine/State.lean ====
section
/-! DEFINITION. The state of the block, as plain data (spec/10_state.md R20 to R35), the reasons a step can stop, and the
start state (spec/70_reset_and_hazards.md R300, R301). -/

namespace Sys2Proof.Machine

/-- The error kinds (spec/60_exceptions.md R270), a closed set; three carry a payload (spec/90_conflicts.md C3). -/
inductive ErrorKind where
  | bytecodeBounds | outOfGas | stackOverflow | stackUnderflow | stackTooDeep
  | accountNotFound | codeNotFound | emptyCode | emptyBytecode
  | insufficientBalance | staticViolation | operationNotAllowed
  | invalidJumpDestination
  | invalidOpcode (b : Byte)
  | notImplemented (b : Byte)
  | revertWithData (data : List Byte)
  | revertWithoutData
  | providerError
  deriving DecidableEq, Repr

/-- How a frame halted (R32). -/
inductive Halt where
  | success
  | error (e : ErrorKind)
  deriving DecidableEq, Repr

/-- The sequencer state of the frame now running (R32). -/
inductive Status where
  | running
  | halted (h : Halt)
  deriving DecidableEq, Repr

/-- The error report latch's content (R33, spec/60_exceptions.md R274). -/
structure Report where
  pc : Nat
  op : Byte
  err : ErrorKind
  count : Nat
  deriving DecidableEq, Repr

/-- Data memory: its length |M| and its non-zero bytes, in rising address order. A listed address reads its byte and an
unlisted one reads 0, the spec's own value for a byte never written (R23, spec/20_memory.md R66). Ops.lean holds its
accesses and its canonical form, `Memory.wf` (log entry 19). -/
structure Memory where
  size : Nat
  cells : List Host.Cell
  deriving DecidableEq, Repr

/-- The memory a frame starts with: length 0 (spec/20_memory.md R62). -/
def Memory.empty : Memory := ⟨0, []⟩

/-- One snapshot: the nine fields a nested call saves by value (R34). -/
structure Snapshot where
  caller : Address
  callvalue : Word
  address : Address
  calldata : List Byte
  returndata : List Byte
  mem : Memory
  stack : List Word
  pc : Nat
  code : List Byte
  deriving DecidableEq, Repr

/-- The state of the block: the frame register F, SAVE, status and report of R20, beside the host's parameters (log entry 1)
and the model's own draw counter (log entry 6). -/
structure State where
  /-- The OPEN parameters the host supplied (R301); no step writes them (R302.3). -/
  params : Params
  /-- `F.pc`: the byte index into the code of the opcode about to execute (R24). -/
  pc : Nat
  /-- `F.code` (R25). -/
  code : List Byte
  /-- `F.gas`, shared by all frames (R26, R35). -/
  gas : BitVec 64
  /-- `F.address` (R29). -/
  address : Address
  /-- `F.origin`, never rebound (R29). -/
  origin : Address
  /-- `F.caller` (R29). -/
  caller : Address
  /-- `F.callvalue` (R29). -/
  callvalue : Word
  /-- `F.stack`, the top first (R22, R11). -/
  stack : List Word
  /-- `F.mem` (R23). -/
  mem : Memory
  /-- `F.calldata` (R30). -/
  calldata : List Byte
  /-- `F.returndata` (R31). -/
  returndata : List Byte
  /-- `F.depth` (R28). -/
  depth : Nat
  /-- `F.count`, shared by all frames (R27, R35). -/
  count : Nat
  /-- `status` (R32). -/
  status : Status
  /-- `report`; `none` is empty (R33). -/
  report : Option Report
  /-- `SAVE`, the newest snapshot last (R34). -/
  save : List Snapshot
  /-- The model's own field: how many draws the external units have made. It stands for the World State's history in a
  draw's arguments (spec/45_frames_external.md R250); log entry 6. -/
  draws : Nat
  deriving DecidableEq, Repr

/-- Why the machine has no next state. No instruction ends in one. -/
inductive Fault where
  /-- Raised by a step of a run that has ended (a halted status at depth 0): "The frame takes no further step"
  (spec/60_exceptions.md R272, spec/70_reset_and_hazards.md R303). Safe: the machine stops where the hardware has
  stopped (log entry 13). -/
  | runEnded
  /-- Raised by FRAME_EXIT when SAVE is empty at depth > 0. No run reaches it, since |SAVE| = F.depth (R34). Safe: the
  machine stops where the spec describes no state (log entry 14). -/
  | snapshotMissing
  deriving DecidableEq, Repr

/-- Why an instruction has no meaning. -/
inductive Refusal where
  /-- Answered by an arm of `exec` whose instruction the model gives no meaning yet. Safe. No arm answers it now. -/
  | notModelled (mnemonic : String)
  deriving DecidableEq, Repr

/-- What the host supplies for one top-level invocation (spec/70_reset_and_hazards.md R301). -/
structure HostStart where
  params : Params
  code : List Byte
  calldata : List Byte
  gas : BitVec 64
  address : Address
  origin : Address
  caller : Address
  callvalue : Word
  deriving DecidableEq, Repr

/-- The start state of R300 for what the host supplied. -/
def State.start (h : HostStart) : State where
  params := h.params
  pc := 0
  code := h.code
  gas := h.gas
  address := h.address
  origin := h.origin
  caller := h.caller
  callvalue := h.callvalue
  stack := []
  mem := .empty
  calldata := h.calldata
  returndata := []
  depth := 0
  count := 0
  status := .running
  report := none
  save := []
  draws := 0

/-- The values State.reset takes for what the host supplies. DESIGN CHOICE, unsafe (log entries 2 and 3): the spec gives no
defaults. No statement rests on them. -/
def HostStart.atReset : HostStart where
  params := .atReset
  code := []
  calldata := []
  gas := 1000
  address := 0
  origin := 0
  caller := 0
  callvalue := 0

/-- The machine right after the host's start (R300), with the log's values for what the host supplies and no program loaded;
a program is loaded by the host (R301, log entry 4). -/
def State.reset : State := State.start .atReset

end Sys2Proof.Machine
end

