-- ==== Sys2Proof/Machine/Ops.lean ====
section
/-! DEFINITION. The named operations over the state: single-field updates, the error halt (this machine's only exception),
the stack controller's primitives, the data memory's primitives, and the frame save and restore.

A primitive that can raise an error takes the rest of the instruction as a continuation: the rest runs on the state the
primitive leaves, or the error halts the frame and the rest does nothing (spec/00_scope.md R12, spec/60_exceptions.md R272).
Every effect made before a raise therefore stands (R273). -/

namespace Sys2Proof.Machine

/-! Single-field updates. -/

def State.setPc (s : State) (pc : Nat) : State := { s with pc := pc }
def State.setStack (s : State) (stack : List Word) : State := { s with stack := stack }
def State.setMem (s : State) (mem : Memory) : State := { s with mem := mem }
def State.setReturndata (s : State) (data : List Byte) : State := { s with returndata := data }
def State.setGas (s : State) (gas : BitVec 64) : State := { s with gas := gas }
def State.setStatus (s : State) (status : Status) : State := { s with status := status }

/-- One opcode byte dispatched (spec/10_state.md R27). -/
def State.counted (s : State) : State := { s with count := s.count + 1 }

/-- One draw of an external unit made (log entry 6). -/
def State.drawn (s : State) : State := { s with draws := s.draws + 1 }

/-- The default advance of an instruction of n bytes, its last write (spec/44_control.md R233). -/
def State.advance (n : Nat) (s : State) : State := s.setPc (s.pc + n)

/-- `F.pc <- L`: the explicit halt of STOP and RETURN (spec/44_control.md R225, R231). -/
def State.toEnd (s : State) : State := s.setPc s.code.length

/-- `code[F.pc]`, the opcode byte at the program counter. At `pc ≥ L` there is none; no rule reads it there
(spec/90_conflicts.md C9) and no run does (log entry 15). -/
def State.opByte (s : State) : Byte := (s.code[s.pc]?).getD 0

/-! The error halt. -/

/-- `raise E`: the frame halts with error E and the report is latched; nothing else changes, so the program counter stays at
the failing opcode and every earlier effect stands (spec/60_exceptions.md R272 to R274, R278). -/
def raise (e : ErrorKind) (s : State) : State :=
  { s with
    status := .halted (.error e)
    report := some { pc := s.pc, op := s.opByte, err := e, count := s.count } }

/-- The kind of a DUP or SWAP depth failure (spec/42_stack.md R182, R183). -/
def dupSwapKind (p : Params) : ErrorKind :=
  match p.dupSwapError with
  | .stackUnderflow => .stackUnderflow
  | .stackTooDeep => .stackTooDeep

/-! The stack controller (spec/42_stack.md R180 to R183). -/

/-- `STACK_LIMIT` (spec/00_scope.md R7). -/
def stackLimit : Nat := 1024

/-- `pop()` (R181). -/
def popThen (s : State) (k : Word → State → State) : State :=
  match s.stack with
  | [] => raise .stackUnderflow s
  | a :: rest => k a (s.setStack rest)

/-- `push(v)` (R180). -/
def pushThen (v : Word) (s : State) (k : State → State) : State :=
  if s.stack.length = stackLimit then raise .stackOverflow s
  else k (s.setStack (v :: s.stack))

/-- `dup(n)`: the depth check, then the push of `S[n-1]` (R182). -/
def dupThen (n : Nat) (s : State) (k : State → State) : State :=
  if n = 0 ∨ s.stack.length < n then raise (dupSwapKind s.params) s
  else pushThen (s.stack.getD (n - 1) 0) s k

/-- A stack with `S[0]` and `S[n]` exchanged, for n below its length (R183). -/
def exchangeTop (n : Nat) (stack : List Word) : List Word :=
  (stack.set 0 (stack.getD n 0)).set n (stack.getD 0 0)

/-- `swap(n)` (R183). -/
def swapThen (n : Nat) (s : State) (k : State → State) : State :=
  if n = 0 ∨ s.stack.length ≤ n then raise (dupSwapKind s.params) s
  else k (s.setStack (exchangeTop n s.stack))

/-! Data memory (spec/20_memory.md). -/

/-- The byte at an address: a listed one's, and 0 where nothing non-zero is listed (R66). -/
def Memory.read (m : Memory) (a : Nat) : Byte := (m.cells.lookup a).getD 0

/-- The cell list with address a holding b; the byte 0 is held by listing nothing. -/
def putCell : List Host.Cell → Nat → Byte → List Host.Cell
  | [], a, b => if b = 0 then [] else [(a, b)]
  | (x, v) :: cs, a, b =>
    if a < x then (if b = 0 then (x, v) :: cs else (a, b) :: (x, v) :: cs)
    else if a = x then (if b = 0 then cs else (a, b) :: cs)
    else (x, v) :: putCell cs a b

/-- `M[a] <- b` (R67). -/
def Memory.write (m : Memory) (a : Nat) (b : Byte) : Memory := { m with cells := putCell m.cells a b }

/-- `M[off + i] <- bytes[i]` for every i (R67). -/
def Memory.writeBytes (m : Memory) (off : Nat) : List Byte → Memory
  | [] => m
  | b :: bs => (m.write off b).writeBytes (off + 1) bs

/-- The bytes `M[off .. off+n)` (R66). -/
def Memory.readBytes (m : Memory) (off n : Nat) : List Byte := (List.range n).map fun i => m.read (off + i)

/-- The smallest multiple of 32 that is at least `n`, `32 * ceil(n / 32)` (R63). -/
def roundUp32 (n : Nat) : Nat := 32 * ((n + 31) / 32)

/-- Zero-filled growth to at least `len`; memory never shrinks (R62, R63). -/
def Memory.grow (m : Memory) (len : Nat) : Memory := { m with size := max m.size len }

/-- The cells are in canonical form from address `lo` up and below `hi`: addresses strictly rising, no byte 0. -/
def cellsWf (lo hi : Nat) : List Host.Cell → Bool
  | [] => true
  | (a, b) :: cs => decide (lo ≤ a) && decide (a < hi) && decide (b ≠ 0) && cellsWf (a + 1) hi cs

/-- The canonical form of a memory: its cells rising, non-zero and below the length, which is a multiple of 32 (R62). Two
memories in this form that read alike at every address and have one length are equal. -/
def Memory.wf (m : Memory) : Bool := cellsWf 0 m.size m.cells && decide (m.size % 32 = 0)

/-- `MemExtend(off, n)`: nothing for an empty range (R64); OutOfGas past MEM_LIMIT, before any change (R65); else growth to
cover the range (R63). DESIGN CHOICE (log entry 30): the end is compared with MEM_LIMIT and the rounded-up length is not, as
R63's pseudocode does, although R7 and R60 bound the length. -/
def extendThen (off n : Nat) (s : State) (k : State → State) : State :=
  if n = 0 then k s
  else if s.params.memLimit < off + n then raise .outOfGas s
  else k (s.setMem (s.mem.grow (roundUp32 (off + n))))

/-- `MemRead(off, n)`: extension, then the bytes (R66). -/
def readThen (off n : Nat) (s : State) (k : List Byte → State → State) : State :=
  extendThen off n s fun t => k (t.mem.readBytes off n) t

/-- `MemWrite(off, n, bytes)` with n the number of bytes: extension, then the bytes (R67). -/
def writeThen (off : Nat) (bytes : List Byte) (s : State) (k : State → State) : State :=
  extendThen off bytes.length s fun t => k (t.setMem (t.mem.writeBytes off bytes))

/-! The call-frame register's save and restore (spec/45_frames_external.md R253, R255). -/

/-- The environment a nested frame is given: caller', address', callvalue' (R253). -/
structure CallEnv where
  caller : Address
  address : Address
  callvalue : Word
  deriving DecidableEq, Repr, Inhabited

/-- The nine saved fields, by value (spec/10_state.md R34). -/
def State.snapshot (s : State) : Snapshot where
  caller := s.caller
  callvalue := s.callvalue
  address := s.address
  calldata := s.calldata
  returndata := s.returndata
  mem := s.mem
  stack := s.stack
  pc := s.pc
  code := s.code

/-- `FRAME_ENTER(env, code', cd)` once the depth limit has been passed: the snapshot, the new environment, the fresh buffers,
memory and stack, the new code from pc 0. Gas, count and origin are not touched (R253, R258). -/
def frameEnter (env : CallEnv) (code cd : List Byte) (s : State) : State :=
  { s with
    save := s.save ++ [s.snapshot]
    caller := env.caller
    address := env.address
    callvalue := env.callvalue
    depth := s.depth + 1
    calldata := cd
    returndata := []
    mem := .empty
    stack := []
    pc := 0
    code := code
    status := .running }

/-- The restore of FRAME_EXIT from one snapshot: the nine fields back, the inner returndata reinstated, the depth down and
the outer frame running. Gas, count, origin and the report stay (R255, spec/60_exceptions.md R274). -/
def frameRestore (snap : Snapshot) (s : State) : State :=
  { s with
    save := s.save.dropLast
    caller := snap.caller
    callvalue := snap.callvalue
    address := snap.address
    calldata := snap.calldata
    mem := snap.mem
    stack := snap.stack
    pc := snap.pc
    code := snap.code
    depth := s.depth - 1
    status := .running }

/-- FRAME_EXIT, the only resumption the block has (R255, spec/60_exceptions.md R279): the newest snapshot restored, none if
SAVE is empty. -/
def frameExit (s : State) : Option State := s.save.getLast?.map fun snap => frameRestore snap s

end Sys2Proof.Machine
end

