-- ==== Sys2Proof/Machine/Flags.lean ====
section
/-! DEFINITION. The block has no status flags (spec/10_state.md R37): no instruction sets one as a side effect. What another
machine does with a flag, this one does with a Word: a comparison pushes the Word 1 or 0, and JUMPI tests a popped Word. -/

namespace Sys2Proof.Machine

/-- `W(true) = W(1)` and `W(false) = W(0)` (spec/00_scope.md R9). -/
def wordOfBool (b : Bool) : Word := if b then 1 else 0

/-- The condition of JUMPI: any non-zero Word (spec/44_control.md R227). -/
def isNonzero (c : Word) : Bool := c.toNat != 0

end Sys2Proof.Machine
end

