-- ==== Sys2Proof/Machine/Operands.lean ====
section
/-! DEFINITION. The operand forms. Every operand but a PUSH immediate is a stack operand, popped one at a time, the top first
(spec/30_encoding.md R104); the ALU's common step (spec/40_alu_arith.md R118) for one, two and three of them; and the
immediate form of PUSHn (spec/42_stack.md R186). -/

namespace Sys2Proof.Machine

/-- Two operands, `a = S[0]` and `b = S[1]`. -/
def pop2Then (s : State) (k : Word → Word → State → State) : State :=
  popThen s fun a s1 => popThen s1 fun b s2 => k a b s2

/-- Three operands, `a = S[0]`, `b = S[1]` and `c = S[2]`. -/
def pop3Then (s : State) (k : Word → Word → Word → State → State) : State :=
  popThen s fun a s1 => popThen s1 fun b s2 => popThen s2 fun c s3 => k a b c s3

/-- The last writes of an instruction with one result: push it, advance by one byte. -/
def pushResult (v : Word) (s : State) : State := pushThen v s (State.advance 1)

/-- The common ALU step with one operand (R118). -/
def alu1 (f : Word → Word) (s : State) : State := popThen s fun a t => pushResult (f a) t

/-- The common ALU step with two operands (R118). -/
def alu2 (f : Word → Word → Word) (s : State) : State := pop2Then s fun a b t => pushResult (f a b) t

/-- The common ALU step with three operands (R118). -/
def alu3 (f : Word → Word → Word → Word) (s : State) : State := pop3Then s fun a b c t => pushResult (f a b c) t

/-- PUSHn: the bound of the code first, then the push, then the advance past the immediate (R186,
spec/30_encoding.md R93). -/
def pushImmediate (n : Nat) (imm : Word) (s : State) : State :=
  if s.code.length ≤ s.pc + n then raise .bytecodeBounds s
  else pushThen imm s (State.advance (1 + n))

end Sys2Proof.Machine
end

