-- ==== Sys2Proof/Machine/Arith.lean ====
section
/-! DEFINITION. The arithmetic instructions (spec/40_alu_arith.md R118 to R131). The operands are read as integers, the result
is computed exactly, and `W(·)` narrows it at the end (R120). None of them writes a flag or raises an error of its own (R119). -/

namespace Sys2Proof.Machine

/-! The ALU functions. -/

def wordAdd (a b : Word) : Word := wordOfNat (a.toNat + b.toNat)
def wordMul (a b : Word) : Word := wordOfNat (a.toNat * b.toNat)
def wordSub (a b : Word) : Word := wordOfInt ((a.toNat : Int) - (b.toNat : Int))

/-- Unsigned quotient, 0 for a divisor of 0 (R124). -/
def wordDiv (a b : Word) : Word := if b.toNat = 0 then 0 else wordOfNat (a.toNat / b.toNat)

/-- Signed quotient rounded toward zero, 0 for a divisor of 0; the quotient 2^255 wraps (R125). -/
def wordSdiv (a b : Word) : Word := if b.toInt = 0 then 0 else wordOfInt (a.toInt.tdiv b.toInt)

/-- Unsigned remainder, 0 for a modulus of 0 (R126). -/
def wordMod (a b : Word) : Word := if b.toNat = 0 then 0 else wordOfNat (a.toNat % b.toNat)

/-- Signed remainder with the dividend's sign, 0 for a modulus of 0 (R127). -/
def wordSmod (a b : Word) : Word :=
  if b.toInt = 0 then 0 else wordOfInt (a.toInt.sign * ((a.toInt.natAbs % b.toInt.natAbs : Nat) : Int))

/-- The exact sum reduced, 0 for a modulus of 0 (R128). -/
def wordAddmod (a b c : Word) : Word := if c.toNat = 0 then 0 else wordOfNat ((a.toNat + b.toNat) % c.toNat)

/-- The exact product reduced, 0 for a modulus of 0 (R129). -/
def wordMulmod (a b c : Word) : Word := if c.toNat = 0 then 0 else wordOfNat ((a.toNat * b.toNat) % c.toNat)

/-- One square-and-multiply step. -/
def powStep (a : Nat) (odd : Bool) (h : Nat) : Nat := ((h * h) * (if odd then a else 1)) % 2 ^ 256

/-- `a ^ e mod 2^256` for an exponent of at most k bits, by squaring from its top bit down. -/
def powMod (a e : Nat) : Nat → Nat
  | 0 => 1
  | k + 1 => if e = 0 then 1 else powStep a (e % 2 == 1) (powMod a (e / 2) k)

/-- `u(a) ^ u(b)` mod 2^256 (R130), in a form that can be evaluated for every exponent (log entry 21). -/
def wordExp (a b : Word) : Word := wordOfNat (powMod a.toNat b.toNat 256)

/-- Byte u(k) and those below it of x, its top bit copied upward; x itself for an index of 31 or more (R131). -/
def wordSignextend (k x : Word) : Word :=
  if 31 ≤ k.toNat then x else (x.extractLsb' 0 (8 * k.toNat + 8)).signExtend 256

/-! The instructions. -/

def execAdd (s : State) : Host.Outcome State Fault Refusal := .next (alu2 wordAdd s)
def execMul (s : State) : Host.Outcome State Fault Refusal := .next (alu2 wordMul s)
/-- The top of the stack is the minuend (R123). -/
def execSub (s : State) : Host.Outcome State Fault Refusal := .next (alu2 wordSub s)
def execDiv (s : State) : Host.Outcome State Fault Refusal := .next (alu2 wordDiv s)
def execSdiv (s : State) : Host.Outcome State Fault Refusal := .next (alu2 wordSdiv s)
def execMod (s : State) : Host.Outcome State Fault Refusal := .next (alu2 wordMod s)
def execSmod (s : State) : Host.Outcome State Fault Refusal := .next (alu2 wordSmod s)
def execAddmod (s : State) : Host.Outcome State Fault Refusal := .next (alu3 wordAddmod s)
def execMulmod (s : State) : Host.Outcome State Fault Refusal := .next (alu3 wordMulmod s)
def execExp (s : State) : Host.Outcome State Fault Refusal := .next (alu2 wordExp s)
/-- The byte index is on top, the Word below it (R131). -/
def execSignextend (s : State) : Host.Outcome State Fault Refusal := .next (alu2 wordSignextend s)

end Sys2Proof.Machine
end

