-- ==== Sys2Proof/Machine/Compare.lean ====
section
/-! DEFINITION. The compare and bitwise instructions (spec/41_alu_compare_bitwise.md R150 to R163), by the common ALU step of
spec/40_alu_arith.md R118. -/

namespace Sys2Proof.Machine

/-! The ALU functions. -/

def wordLt (a b : Word) : Word := wordOfBool (decide (a.toNat < b.toNat))
def wordGt (a b : Word) : Word := wordOfBool (decide (b.toNat < a.toNat))
def wordSlt (a b : Word) : Word := wordOfBool (decide (a.toInt < b.toInt))
def wordSgt (a b : Word) : Word := wordOfBool (decide (b.toInt < a.toInt))
def wordEq (a b : Word) : Word := wordOfBool (decide (a.toNat = b.toNat))
def wordIszero (a : Word) : Word := wordOfBool (decide (a.toNat = 0))
def wordAnd (a b : Word) : Word := a &&& b
def wordOr (a b : Word) : Word := a ||| b
def wordXor (a b : Word) : Word := a ^^^ b
def wordNot (a : Word) : Word := ~~~a

/-- Byte i of x, byte 0 the most significant; 0 for an index of 32 or more (R160). -/
def wordByte (i x : Word) : Word :=
  if i.toNat < 32 then (x.extractLsb' (248 - 8 * i.toNat) 8).setWidth 256 else 0

/-- `u(v) * 2^u(sh)`, 0 for a shift of 256 or more (R161). -/
def wordShl (sh v : Word) : Word := if 256 ≤ sh.toNat then 0 else wordOfNat (v.toNat * 2 ^ sh.toNat)

/-- `u(v) div 2^u(sh)`, 0 for a shift of 256 or more (R162). -/
def wordShr (sh v : Word) : Word := if 256 ≤ sh.toNat then 0 else wordOfNat (v.toNat / 2 ^ sh.toNat)

/-- `floor(s(v) / 2^u(sh))`; for a shift of 256 or more all ones or 0, by the sign (R163). -/
def wordSar (sh v : Word) : Word :=
  if 256 ≤ sh.toNat then (if v.toInt < 0 then wordOfInt (-1) else 0)
  else wordOfInt (v.toInt.fdiv ((2 ^ sh.toNat : Nat) : Int))

/-! The instructions. -/

def execLt (s : State) : Host.Outcome State Fault Refusal := .next (alu2 wordLt s)
def execGt (s : State) : Host.Outcome State Fault Refusal := .next (alu2 wordGt s)
def execSlt (s : State) : Host.Outcome State Fault Refusal := .next (alu2 wordSlt s)
def execSgt (s : State) : Host.Outcome State Fault Refusal := .next (alu2 wordSgt s)
def execEq (s : State) : Host.Outcome State Fault Refusal := .next (alu2 wordEq s)
def execIszero (s : State) : Host.Outcome State Fault Refusal := .next (alu1 wordIszero s)
def execAnd (s : State) : Host.Outcome State Fault Refusal := .next (alu2 wordAnd s)
def execOr (s : State) : Host.Outcome State Fault Refusal := .next (alu2 wordOr s)
def execXor (s : State) : Host.Outcome State Fault Refusal := .next (alu2 wordXor s)
def execNot (s : State) : Host.Outcome State Fault Refusal := .next (alu1 wordNot s)
/-- The byte index is on top (R160). -/
def execByte (s : State) : Host.Outcome State Fault Refusal := .next (alu2 wordByte s)
/-- The shift amount is on top (R161 to R163). -/
def execShl (s : State) : Host.Outcome State Fault Refusal := .next (alu2 wordShl s)
def execShr (s : State) : Host.Outcome State Fault Refusal := .next (alu2 wordShr s)
def execSar (s : State) : Host.Outcome State Fault Refusal := .next (alu2 wordSar s)

end Sys2Proof.Machine
end

