-- ==== Sys2Proof/WellFormed.lean ====
section
/-! DEFINITION. Which instructions are well formed: a PUSHn immediate fits in its n bytes (spec/30_encoding.md R92: "Its top
`32-n` bytes are zero"). No other instruction has an operand field (R90). -/

namespace Sys2Proof

/-- The immediate width n of PUSHn, with the immediate; none for every other instruction. -/
def Instr.pushParts : Instr → Option (Nat × Word)
  | .push1 imm => some (1, imm)
  | .push2 imm => some (2, imm)
  | .push3 imm => some (3, imm)
  | .push4 imm => some (4, imm)
  | .push5 imm => some (5, imm)
  | .push6 imm => some (6, imm)
  | .push7 imm => some (7, imm)
  | .push8 imm => some (8, imm)
  | .push9 imm => some (9, imm)
  | .push10 imm => some (10, imm)
  | .push11 imm => some (11, imm)
  | .push12 imm => some (12, imm)
  | .push13 imm => some (13, imm)
  | .push14 imm => some (14, imm)
  | .push15 imm => some (15, imm)
  | .push16 imm => some (16, imm)
  | .push17 imm => some (17, imm)
  | .push18 imm => some (18, imm)
  | .push19 imm => some (19, imm)
  | .push20 imm => some (20, imm)
  | .push21 imm => some (21, imm)
  | .push22 imm => some (22, imm)
  | .push23 imm => some (23, imm)
  | .push24 imm => some (24, imm)
  | .push25 imm => some (25, imm)
  | .push26 imm => some (26, imm)
  | .push27 imm => some (27, imm)
  | .push28 imm => some (28, imm)
  | .push29 imm => some (29, imm)
  | .push30 imm => some (30, imm)
  | .push31 imm => some (31, imm)
  | .push32 imm => some (32, imm)
  | .stop | .add | .mul | .sub | .div | .sdiv | .mod | .smod | .addmod | .mulmod | .exp | .signextend => none
  | .lt | .gt | .slt | .sgt | .eq | .iszero | .and | .or | .xor | .not | .byte | .shl => none
  | .shr | .sar | .calldataload | .pop | .mload | .mstore | .mstore8 | .sload | .sstore | .jump | .jumpi | .pc => none
  | .msize | .gas | .jumpdest | .mcopy | .push0 | .dup1 | .dup2 | .dup3 | .dup4 | .dup5 | .dup6 | .dup7 => none
  | .dup8 | .dup9 | .dup10 | .dup11 | .dup12 | .dup13 | .dup14 | .dup15 | .dup16 | .swap1 | .swap2 | .swap3 => none
  | .swap4 | .swap5 | .swap6 | .swap7 | .swap8 | .swap9 | .swap10 | .swap11 | .swap12 | .swap13 | .swap14 | .swap15 => none
  | .swap16 | .log0 | .log1 | .log2 | .log3 | .log4 | .create | .call | .callcode | .ret | .delegatecall | .create2 => none
  | .staticcall | .revert | .selfdestruct => none

/-- A well-formed instruction: one the encoding can hold. -/
def Instr.wellFormed (i : Instr) : Bool :=
  match i.pushParts with
  | some (n, imm) => decide (imm.toNat < 256 ^ n)
  | none => true

end Sys2Proof
end

