-- ==== Sys2Proof/Decode.lean ====
section
/-! DEFINITION. The decoder, total on any bytes and rejecting by name, and after it the encoder
(spec/30_encoding.md R90 to R95, R98; spec/opcode_table.json).

The decoder is about the table alone. Which CLASS a byte has (in-block, external, not implemented, unassigned) depends on the
OPEN parameters and is the sequencer's (R96, Sys2Proof/Machine/Sequencer.lean): 0x5F decodes to PUSH0 and an external byte to
its row here, and the sequencer does not run them where their class says otherwise (log entry 16). -/

namespace Sys2Proof

open Sys2Proof.Machine (wordOfBytes natToBytes)

/-- Why a byte sequence is no instruction of the table. -/
inductive DecodeError where
  /-- There is no byte at all. -/
  | noByte
  /-- The first byte is in no row of the opcode table. -/
  | notInTable (b : Byte)
  /-- A PUSHn with fewer than n bytes after it (R93); the sequencer raises BytecodeBounds. -/
  | truncatedPush (b : Byte)
  deriving DecidableEq, Repr

/-- Arithmetic and STOP. -/
def arithmeticRows : List (Byte × Instr) :=
  [(0x00, .stop), (0x01, .add), (0x02, .mul), (0x03, .sub), (0x04, .div),
   (0x05, .sdiv), (0x06, .mod), (0x07, .smod), (0x08, .addmod), (0x09, .mulmod),
   (0x0A, .exp), (0x0B, .signextend)]

/-- Compare and bitwise. -/
def compareBitwiseRows : List (Byte × Instr) :=
  [(0x10, .lt), (0x11, .gt), (0x12, .slt), (0x13, .sgt), (0x14, .eq),
   (0x15, .iszero), (0x16, .and), (0x17, .or), (0x18, .xor), (0x19, .not),
   (0x1A, .byte), (0x1B, .shl), (0x1C, .shr), (0x1D, .sar)]

/-- CALLDATALOAD. -/
def externalLowRows : List (Byte × Instr) :=
  [(0x35, .calldataload)]

/-- Stack, memory, storage and control, 0x50 to 0x5F. -/
def memoryControlRows : List (Byte × Instr) :=
  [(0x50, .pop), (0x51, .mload), (0x52, .mstore), (0x53, .mstore8), (0x54, .sload),
   (0x55, .sstore), (0x56, .jump), (0x57, .jumpi), (0x58, .pc), (0x59, .msize),
   (0x5A, .gas), (0x5B, .jumpdest), (0x5E, .mcopy), (0x5F, .push0)]

/-- DUP1 to DUP16, 0x80 + (n-1) (R187). -/
def dupRows : List (Byte × Instr) :=
  [(0x80, .dup1), (0x81, .dup2), (0x82, .dup3), (0x83, .dup4), (0x84, .dup5),
   (0x85, .dup6), (0x86, .dup7), (0x87, .dup8), (0x88, .dup9), (0x89, .dup10),
   (0x8A, .dup11), (0x8B, .dup12), (0x8C, .dup13), (0x8D, .dup14), (0x8E, .dup15),
   (0x8F, .dup16)]

/-- SWAP1 to SWAP16, 0x90 + (n-1) (R188). -/
def swapRows : List (Byte × Instr) :=
  [(0x90, .swap1), (0x91, .swap2), (0x92, .swap3), (0x93, .swap4), (0x94, .swap5),
   (0x95, .swap6), (0x96, .swap7), (0x97, .swap8), (0x98, .swap9), (0x99, .swap10),
   (0x9A, .swap11), (0x9B, .swap12), (0x9C, .swap13), (0x9D, .swap14), (0x9E, .swap15),
   (0x9F, .swap16)]

/-- LOG0 to LOG4. -/
def logRows : List (Byte × Instr) :=
  [(0xA0, .log0), (0xA1, .log1), (0xA2, .log2), (0xA3, .log3), (0xA4, .log4)]

/-- Calls, returns and self-destruct. -/
def systemRows : List (Byte × Instr) :=
  [(0xF0, .create), (0xF1, .call), (0xF2, .callcode), (0xF3, .ret), (0xF4, .delegatecall),
   (0xF5, .create2), (0xFA, .staticcall), (0xFD, .revert), (0xFF, .selfdestruct)]

/-- Every row without an immediate (R95, R98). -/
def plainRows : List (Byte × Instr) :=
  arithmeticRows ++ compareBitwiseRows ++ externalLowRows ++ memoryControlRows
  ++ dupRows ++ swapRows ++ logRows ++ systemRows

/-- PUSH1 to PUSH32 in order: the constructor of PUSHn stands at n-1 (R91). -/
def pushConstructors : List (Word → Instr) :=
  [.push1, .push2, .push3, .push4, .push5, .push6, .push7, .push8,
   .push9, .push10, .push11, .push12, .push13, .push14, .push15, .push16,
   .push17, .push18, .push19, .push20, .push21, .push22, .push23, .push24,
   .push25, .push26, .push27, .push28, .push29, .push30, .push31, .push32]

/-- The length of the instruction an opcode byte starts, from that byte alone (R91). -/
def instrLength (b : Byte) : Nat :=
  if 0x60 ≤ b.toNat ∧ b.toNat ≤ 0x7F then 1 + (b.toNat - 0x5F) else 1

/-- PUSHn after its opcode byte: n immediate bytes, big-endian, zero-padded left (R92), or the rejection of R93. -/
def decodePush (b : Byte) (n : Nat) (rest : List Byte) : Except DecodeError (Instr × List Byte) :=
  if rest.length < n then .error (.truncatedPush b)
  else
    match pushConstructors[n - 1]? with
    | some c => .ok (c (wordOfBytes (rest.take n)), rest.drop n)
    | none => .error (.notInTable b)

/-- The instruction at the head of a byte sequence, with the bytes after it (R90). -/
def decode : List Byte → Except DecodeError (Instr × List Byte)
  | [] => .error .noByte
  | b :: rest =>
    if 0x60 ≤ b.toNat ∧ b.toNat ≤ 0x7F then decodePush b (b.toNat - 0x5F) rest
    else
      match plainRows.lookup b with
      | some i => .ok (i, rest)
      | none => .error (.notInTable b)

/-- The table's row for an opcode byte: the instruction it starts, a PUSH with the immediate 0. -/
def opcodeRow (b : Byte) : Option Instr :=
  if 0x60 ≤ b.toNat ∧ b.toNat ≤ 0x7F then pushConstructors[b.toNat - 0x60]?.map (· 0)
  else plainRows.lookup b

/-- The longest instruction, PUSH32, in bytes (R90). -/
def maxInstrBytes : Nat := 33

/-- The bytes of an instruction whose bits are w as the opcode table numbers them: the first byte is bits 7..0, the next
bits 15..8, and every byte from nbits up (a whole number of bytes) is 0. -/
def tableBytes (nbits w : Nat) : List Byte :=
  (List.range maxInstrBytes).map fun k => if 8 * k < nbits then BitVec.ofNat 8 (w / 256 ^ k) else 0

/-- The instruction the decoder reads from the table's bits. -/
def decodeTableWord (nbits w : Nat) : Option Instr :=
  match decode (tableBytes nbits w) with
  | .ok (i, _) => some i
  | .error _ => none

/-- The opcode byte of an instruction (R95, R98). -/
def Instr.opcode : Instr → Byte
  | .stop => 0x00
  | .add => 0x01
  | .mul => 0x02
  | .sub => 0x03
  | .div => 0x04
  | .sdiv => 0x05
  | .mod => 0x06
  | .smod => 0x07
  | .addmod => 0x08
  | .mulmod => 0x09
  | .exp => 0x0A
  | .signextend => 0x0B
  | .lt => 0x10
  | .gt => 0x11
  | .slt => 0x12
  | .sgt => 0x13
  | .eq => 0x14
  | .iszero => 0x15
  | .and => 0x16
  | .or => 0x17
  | .xor => 0x18
  | .not => 0x19
  | .byte => 0x1A
  | .shl => 0x1B
  | .shr => 0x1C
  | .sar => 0x1D
  | .calldataload => 0x35
  | .pop => 0x50
  | .mload => 0x51
  | .mstore => 0x52
  | .mstore8 => 0x53
  | .sload => 0x54
  | .sstore => 0x55
  | .jump => 0x56
  | .jumpi => 0x57
  | .pc => 0x58
  | .msize => 0x59
  | .gas => 0x5A
  | .jumpdest => 0x5B
  | .mcopy => 0x5E
  | .push0 => 0x5F
  | .push1 _ => 0x60
  | .push2 _ => 0x61
  | .push3 _ => 0x62
  | .push4 _ => 0x63
  | .push5 _ => 0x64
  | .push6 _ => 0x65
  | .push7 _ => 0x66
  | .push8 _ => 0x67
  | .push9 _ => 0x68
  | .push10 _ => 0x69
  | .push11 _ => 0x6A
  | .push12 _ => 0x6B
  | .push13 _ => 0x6C
  | .push14 _ => 0x6D
  | .push15 _ => 0x6E
  | .push16 _ => 0x6F
  | .push17 _ => 0x70
  | .push18 _ => 0x71
  | .push19 _ => 0x72
  | .push20 _ => 0x73
  | .push21 _ => 0x74
  | .push22 _ => 0x75
  | .push23 _ => 0x76
  | .push24 _ => 0x77
  | .push25 _ => 0x78
  | .push26 _ => 0x79
  | .push27 _ => 0x7A
  | .push28 _ => 0x7B
  | .push29 _ => 0x7C
  | .push30 _ => 0x7D
  | .push31 _ => 0x7E
  | .push32 _ => 0x7F
  | .dup1 => 0x80
  | .dup2 => 0x81
  | .dup3 => 0x82
  | .dup4 => 0x83
  | .dup5 => 0x84
  | .dup6 => 0x85
  | .dup7 => 0x86
  | .dup8 => 0x87
  | .dup9 => 0x88
  | .dup10 => 0x89
  | .dup11 => 0x8A
  | .dup12 => 0x8B
  | .dup13 => 0x8C
  | .dup14 => 0x8D
  | .dup15 => 0x8E
  | .dup16 => 0x8F
  | .swap1 => 0x90
  | .swap2 => 0x91
  | .swap3 => 0x92
  | .swap4 => 0x93
  | .swap5 => 0x94
  | .swap6 => 0x95
  | .swap7 => 0x96
  | .swap8 => 0x97
  | .swap9 => 0x98
  | .swap10 => 0x99
  | .swap11 => 0x9A
  | .swap12 => 0x9B
  | .swap13 => 0x9C
  | .swap14 => 0x9D
  | .swap15 => 0x9E
  | .swap16 => 0x9F
  | .log0 => 0xA0
  | .log1 => 0xA1
  | .log2 => 0xA2
  | .log3 => 0xA3
  | .log4 => 0xA4
  | .create => 0xF0
  | .call => 0xF1
  | .callcode => 0xF2
  | .ret => 0xF3
  | .delegatecall => 0xF4
  | .create2 => 0xF5
  | .staticcall => 0xFA
  | .revert => 0xFD
  | .selfdestruct => 0xFF

/-- The bytes of an instruction: its opcode byte, then for PUSHn its n immediate bytes, most significant first (R90, R92). -/
def encode (i : Instr) : List Byte :=
  match i.pushParts with
  | some (n, imm) => i.opcode :: natToBytes n imm.toNat
  | none => [i.opcode]

end Sys2Proof
end

