-- ==== Sys2Proof/Machine/Control.lean ====
section
/-! DEFINITION. The control instructions (spec/44_control.md R224 to R232). -/

namespace Sys2Proof.Machine

/-! Jump destinations (R224). -/

/-- Whether offset t of a code is an opcode position, `t ∈ OPS(code)`: the code is read from an opcode position, and `skip` of
its bytes are still immediates. Offset 0 of a non-empty code is one, and so is the offset an instruction's length past one. -/
def opcodeAt : List Byte → Nat → Nat → Bool
  | [], _, _ => false
  | _ :: _, 0, 0 => true
  | _ :: _, _ + 1, 0 => false
  | b :: rest, 0, t + 1 => opcodeAt rest (instrLength b - 1) t
  | _ :: rest, skip + 1, t + 1 => opcodeAt rest skip t

/-- `t ∈ OPS(code)` (R224). -/
def isOpcodePosition (code : List Byte) (t : Nat) : Bool := opcodeAt code 0 t

/-- A valid jump target: inside the code, a JUMPDEST byte, and an opcode position unless the analysis reads raw bytes (R224). -/
def validJump (p : Params) (code : List Byte) (t : Nat) : Bool :=
  decide (t < code.length) && (code[t]? == some 0x5B) &&
    (decide (p.jumpdestAnalysis = .rawByte) || isOpcodePosition code t)

/-- A taken jump to t, or InvalidJumpDestination with the program counter at the jump (R226, R227). -/
def jumpTo (t : Word) (s : State) : State :=
  if validJump s.params s.code t.toNat then s.setPc t.toNat else raise .invalidJumpDestination s

/-! The instructions. -/

/-- STOP (R225). -/
def execStop (s : State) : Host.Outcome State Fault Refusal :=
  .next (if s.params.stopClearsReturndata then (s.setReturndata []).toEnd else s.toEnd)

/-- JUMP (R226). -/
def execJump (s : State) : Host.Outcome State Fault Refusal := .next (popThen s jumpTo)

/-- JUMPI (R227): the target is checked only when the jump is taken. -/
def execJumpi (s : State) : Host.Outcome State Fault Refusal :=
  .next (pop2Then s fun t c s' => if isNonzero c then jumpTo t s' else s'.advance 1)

/-- PC (R229): the offset of this opcode itself. -/
def execPc (s : State) : Host.Outcome State Fault Refusal := .next (pushResult (wordOfNat s.pc) s)

/-- GAS (R230): the gas before this instruction's own debit, which the sequencer makes after it (R220). -/
def execGas (s : State) : Host.Outcome State Fault Refusal := .next (pushResult (wordOfNat s.gas.toNat) s)

/-- JUMPDEST (R228): nothing but the advance. -/
def execJumpdest (s : State) : Host.Outcome State Fault Refusal := .next (s.advance 1)

/-- RETURN (R231). -/
def execRet (s : State) : Host.Outcome State Fault Refusal :=
  .next (pop2Then s fun off n t => readThen off.toNat n.toNat t fun data t' => (t'.setReturndata data).toEnd)

/-- REVERT (R232): always an error halt, whose kind carries the data. -/
def execRevert (s : State) : Host.Outcome State Fault Refusal :=
  .next (pop2Then s fun off n t => readThen off.toNat n.toNat t fun data t' =>
    let t'' := if t'.params.revertSetsReturndata then t'.setReturndata data else t'
    if n.toNat = 0 then raise .revertWithoutData t'' else raise (.revertWithData data) t'')

end Sys2Proof.Machine
end

