-- ==== Sys2Proof/Machine/Draws.lean ====
section
/-! DEFINITION. `EXT_SEMANTICS` as free values: what the units outside the block do with an external opcode
(spec/45_frames_external.md R250 to R257, decision D22).

The spec takes each outcome as "a draw: it assumes nothing of it beyond rule R251". Here a draw is an OPAQUE function: it has
no body, so nothing proved of the model rests on what a unit does. It is applied to the opcode byte, the whole state (the
frame F, and the draw counter that stands for the World State's history), which is the relation's own argument list. A reply
is a list of the block's own primitives with the unit's values, so R251's constraints on the stack and the memory hold
whatever is drawn (log entries 5, 6 and 7). -/

namespace Sys2Proof.Machine

/-- One use of the block's primitives by an external unit (R251 items 1 and 2). -/
inductive ExtAction where
  | pop
  | push (v : Word)
  | memExtend (off size : Word)
  | memRead (off size : Word)
  | memWrite (off : Word) (bytes : List Byte)
  deriving DecidableEq, Repr

/-- How an external opcode ends when no primitive has failed (R251 items 4 and 5). -/
inductive ExtEnding where
  /-- Success, pc + 1. -/
  | advance
  /-- Success, pc becomes L. -/
  | toEnd
  /-- An error of R270. -/
  | fail (e : ErrorKind)
  deriving DecidableEq, Repr, Inhabited

/-- One element of EXT_SEMANTICS for an opcode that enters no frame. -/
structure ExtReply where
  actions : List ExtAction
  ending : ExtEnding
  deriving DecidableEq, Repr, Inhabited

/-- A frame the call unit asks for, with what it does before: it pops its operands, one at least, grows what memory it needs
and reads the input region, and pushes nothing (R252). So the caller's stack has room for the flag at the snapshot (R256; log
entry 29). -/
structure CallFrame where
  /-- How many operands beyond the first. -/
  moreOperands : Nat
  /-- The regions, offset and size, that memory is grown to cover beside the input region. -/
  grown : List (Word × Word)
  env : CallEnv
  inOff : Word
  inSize : Word
  /-- What stands at the execution address; `none` is a target without code (R254). -/
  code : Option (List Byte)
  deriving DecidableEq, Repr, Inhabited

/-- One outcome of a call or create opcode up to its frame: it ends without one, as any external opcode may, or asks for one
(R252). -/
inductive CallReply where
  | finish (reply : ExtReply)
  | frame (f : CallFrame)
  deriving DecidableEq, Repr, Inhabited

/-- One outcome of CREATE or CREATE2 after its frame: the unit's primitives, then an error, or success, which always moves one
byte on from the restored program counter and never to L (R256, decision D25). -/
structure ResumeReply where
  actions : List ExtAction
  error : Option ErrorKind
  deriving DecidableEq, Repr, Inhabited

end Sys2Proof.Machine

/-- Free value: the outcome of an external opcode that is no call or create opcode (R250). No body. -/
opaque Sys2Proof.Config.extReply (b : Sys2Proof.Byte) (s : Sys2Proof.Machine.State) : Sys2Proof.Machine.ExtReply

/-- Free value: what the external call unit does up to the frame it enters (R252). No body. -/
opaque Sys2Proof.Config.callReply (b : Sys2Proof.Byte) (s : Sys2Proof.Machine.State) : Sys2Proof.Machine.CallReply

/-- Free value: what CREATE or CREATE2 does after its frame, of whose success `ok` tells; the spec leaves it to the call unit,
but for the program counter (R256). No body. -/
opaque Sys2Proof.Config.afterFrame (b : Sys2Proof.Byte) (ok : Bool) (s : Sys2Proof.Machine.State) :
  Sys2Proof.Machine.ResumeReply
end

