-- ==== Sys2Proof/Machine/External.lean ====
section
/-! DEFINITION. External dispatch and the block's part of a call (spec/45_frames_external.md R250 to R258).

An external opcode takes one draw and applies it through the block's primitives. A call or create opcode that enters a frame
is three kinds of step: the opcode itself, up to FRAME_ENTER (R252, R253); the inner frame's own steps (R254); and the step
that takes FRAME_EXIT and finishes the opcode (R255, R256; Sys2Proof/Machine/Sequencer.lean). Log entry 8. -/

namespace Sys2Proof.Machine

/-- The unit's primitives in order; the first that fails halts the frame, and what the earlier ones did stands (R251). -/
def runActions : List ExtAction → State → (State → State) → State
  | [], s, k => k s
  | .pop :: as, s, k => popThen s fun _ t => runActions as t k
  | .push v :: as, s, k => pushThen v s fun t => runActions as t k
  | .memExtend off size :: as, s, k => extendThen off.toNat size.toNat s fun t => runActions as t k
  | .memRead off size :: as, s, k => readThen off.toNat size.toNat s fun _ t => runActions as t k
  | .memWrite off bytes :: as, s, k => writeThen off.toNat bytes s fun t => runActions as t k

/-- How an external opcode ends (R251 items 4 and 5). -/
def finishWith (e : ExtEnding) (s : State) : State :=
  match e with
  | .advance => s.advance 1
  | .toEnd => s.toEnd
  | .fail e => raise e s

/-- One outcome of an external opcode, applied (R250, R251). -/
def applyReply (r : ExtReply) (s : State) : State := runActions r.actions s (finishWith r.ending)

/-- An external opcode that enters no frame: one draw, applied (R250). -/
def externalOp (b : Byte) (s : State) : State := applyReply (Config.extReply b s) s.drawn

/-! The call and create opcodes (R252). -/

def callByte : Byte := 0xF1
def callcodeByte : Byte := 0xF2
def delegatecallByte : Byte := 0xF4
def staticcallByte : Byte := 0xFA
def createByte : Byte := 0xF0
def create2Byte : Byte := 0xF5

/-- The four call opcodes, which finish with the flag push (R256). -/
def isCallByte (b : Byte) : Bool :=
  b == callByte || b == callcodeByte || b == delegatecallByte || b == staticcallByte

/-- The environment the call unit binds, from what it chose (step 2, R253): CALL and STATICCALL set the caller to the current
address, DELEGATECALL and CALLCODE preserve caller and address; every other value is the unit's (log entry 9). -/
def bindEnv (b : Byte) (chosen : CallEnv) (s : State) : CallEnv :=
  if b = callByte ∨ b = staticcallByte then { chosen with caller := s.address }
  else if b = callcodeByte ∨ b = delegatecallByte then { chosen with caller := s.caller, address := s.address }
  else chosen

/-- The inner frame's calldata: by INNER_CALLDATA for a call, empty for CREATE and CREATE2 (R253, D37). -/
def innerInput (b : Byte) (p : Params) (input : List Byte) : List Byte :=
  if b = createByte ∨ b = create2Byte then []
  else
    match p.innerCalldata with
    | .empty => []
    | .input => input

/-- Whether FRAME_ENTER is refused at this depth (R257). -/
def depthExceeded (s : State) : Bool :=
  match s.params.maxCallDepth with
  | some d => decide (d ≤ s.depth)
  | none => false

/-- How a create opcode ends after its frame: an error, or one byte on (R251 item 5, R256). -/
def resumeEnding (r : ResumeReply) : ExtEnding :=
  match r.error with
  | none => .advance
  | some e => .fail e

/-- One outcome of a create opcode after its frame, applied (R256). -/
def applyResume (r : ResumeReply) (s : State) : State :=
  applyReply { actions := r.actions, ending := resumeEnding r } s

/-- The end of a call or create opcode once its frame's success is known: a call pushes the flag and advances (R256); what
CREATE and CREATE2 do is a draw, made on the state `drawnOn`, but for the advance (log entry 11). -/
def finishCall (b : Byte) (ok : Bool) (drawnOn s : State) : State :=
  if isCallByte b then pushResult (wordOfBool ok) s
  else applyResume (Config.afterFrame b ok drawnOn) s.drawn

/-- FRAME_ENTER with its depth limit (R253, R257), and the call to a target without code, which enters, runs no inner step,
and exits with the flag NOCODE_OK (R254; log entry 10). -/
def enterFrame (b : Byte) (env : CallEnv) (input : List Byte) (code : Option (List Byte)) (s : State) : State :=
  if depthExceeded s then
    match s.params.depthExceeded with
    | .failFlag => finishCall b false s s
    | .abortStackTooDeep => raise .stackTooDeep s
  else
    match code with
    | some c => frameEnter (bindEnv b env s) c (innerInput b s.params input) s
    | none =>
      let inner := frameEnter (bindEnv b env s) [] (innerInput b s.params input) s
      finishCall b s.params.nocodeOk inner (frameRestore s.snapshot inner)

/-- What precedes a frame but for the input region: the operand pops, then the growth (R252). -/
def frameActions (f : CallFrame) : List ExtAction :=
  List.replicate (f.moreOperands + 1) .pop ++ f.grown.map fun r => .memExtend r.1 r.2

/-- One outcome of a call or create opcode up to its frame, applied: the operands are popped and the input region is read
before the snapshot (R252). -/
def applyCall (b : Byte) (r : CallReply) (s : State) : State :=
  match r with
  | .finish reply => applyReply reply s
  | .frame f =>
    runActions (frameActions f) s fun t =>
      readThen f.inOff.toNat f.inSize.toNat t fun input t' => enterFrame b f.env input f.code t'

/-- A call or create opcode: one draw, applied (R252). -/
def callOp (b : Byte) (s : State) : State := applyCall b (Config.callReply b s) s.drawn

/-! The instructions (spec/30_encoding.md R98). The sequencer runs them only when their byte is in EXT_OPCODES. -/

def execCalldataload (s : State) : Host.Outcome State Fault Refusal := .next (externalOp 0x35 s)
def execSload (s : State) : Host.Outcome State Fault Refusal := .next (externalOp 0x54 s)
def execSstore (s : State) : Host.Outcome State Fault Refusal := .next (externalOp 0x55 s)
def execLog0 (s : State) : Host.Outcome State Fault Refusal := .next (externalOp 0xA0 s)
def execLog1 (s : State) : Host.Outcome State Fault Refusal := .next (externalOp 0xA1 s)
def execLog2 (s : State) : Host.Outcome State Fault Refusal := .next (externalOp 0xA2 s)
def execLog3 (s : State) : Host.Outcome State Fault Refusal := .next (externalOp 0xA3 s)
def execLog4 (s : State) : Host.Outcome State Fault Refusal := .next (externalOp 0xA4 s)
def execSelfdestruct (s : State) : Host.Outcome State Fault Refusal := .next (externalOp 0xFF s)
def execCreate (s : State) : Host.Outcome State Fault Refusal := .next (callOp createByte s)
def execCall (s : State) : Host.Outcome State Fault Refusal := .next (callOp callByte s)
def execCallcode (s : State) : Host.Outcome State Fault Refusal := .next (callOp callcodeByte s)
def execDelegatecall (s : State) : Host.Outcome State Fault Refusal := .next (callOp delegatecallByte s)
def execCreate2 (s : State) : Host.Outcome State Fault Refusal := .next (callOp create2Byte s)
def execStaticcall (s : State) : Host.Outcome State Fault Refusal := .next (callOp staticcallByte s)

end Sys2Proof.Machine
end

