-- ==== Sys2Proof/Machine/MemoryOps.lean ====
section
/-! DEFINITION. The memory instructions (spec/43_memory_ops.md R200 to R204). The effective address is `u(off)`, a popped Word
read as an unsigned byte offset, never truncated (spec/20_memory.md R61). -/

namespace Sys2Proof.Machine

/-- MLOAD (R200): a load grows memory, then pushes the 32 bytes as a big-endian Word. -/
def execMload (s : State) : Host.Outcome State Fault Refusal :=
  .next (popThen s fun off t => readThen off.toNat 32 t fun bytes t' => pushResult (wordOfBytes bytes) t')

/-- MSTORE (R201). -/
def execMstore (s : State) : Host.Outcome State Fault Refusal :=
  .next (pop2Then s fun off v t => writeThen off.toNat (wordToBytes v) t (State.advance 1))

/-- MSTORE8 (R202): only the least significant byte of v. -/
def execMstore8 (s : State) : Host.Outcome State Fault Refusal :=
  .next (pop2Then s fun off v t => writeThen off.toNat [v.extractLsb' 0 8] t (State.advance 1))

/-- MSIZE (R203): the byte length; it grows nothing. -/
def execMsize (s : State) : Host.Outcome State Fault Refusal := .next (pushResult (wordOfNat s.mem.size) s)

/-- MCOPY (R204): one growth covering both ranges, then the source bytes staged through a temporary and written to the
destination. A length of 0 grows and checks nothing. -/
def execMcopy (s : State) : Host.Outcome State Fault Refusal :=
  .next (pop3Then s fun dst src n t =>
    extendThen (max dst.toNat src.toNat) n.toNat t fun t' =>
      (t'.setMem (t'.mem.writeBytes dst.toNat (t'.mem.readBytes src.toNat n.toNat))).advance 1)

end Sys2Proof.Machine
end

