-- ==== Sys2Proof/Machine/StackOps.lean ====
section
/-! DEFINITION. The stack instructions (spec/42_stack.md R184 to R188) over the stack controller's primitives. -/

namespace Sys2Proof.Machine

/-- The value is discarded (R184). -/
def execPop (s : State) : Host.Outcome State Fault Refusal := .next (popThen s fun _ t => t.advance 1)

/-- PUSH0 (R185). The sequencer runs it only when PUSH0_MODE = PushZero. -/
def execPush0 (s : State) : Host.Outcome State Fault Refusal := .next (pushResult 0 s)

/-! PUSH1 to PUSH32 (R186). -/

def execPush1 (imm : Word) (s : State) : Host.Outcome State Fault Refusal := .next (pushImmediate 1 imm s)
def execPush2 (imm : Word) (s : State) : Host.Outcome State Fault Refusal := .next (pushImmediate 2 imm s)
def execPush3 (imm : Word) (s : State) : Host.Outcome State Fault Refusal := .next (pushImmediate 3 imm s)
def execPush4 (imm : Word) (s : State) : Host.Outcome State Fault Refusal := .next (pushImmediate 4 imm s)
def execPush5 (imm : Word) (s : State) : Host.Outcome State Fault Refusal := .next (pushImmediate 5 imm s)
def execPush6 (imm : Word) (s : State) : Host.Outcome State Fault Refusal := .next (pushImmediate 6 imm s)
def execPush7 (imm : Word) (s : State) : Host.Outcome State Fault Refusal := .next (pushImmediate 7 imm s)
def execPush8 (imm : Word) (s : State) : Host.Outcome State Fault Refusal := .next (pushImmediate 8 imm s)
def execPush9 (imm : Word) (s : State) : Host.Outcome State Fault Refusal := .next (pushImmediate 9 imm s)
def execPush10 (imm : Word) (s : State) : Host.Outcome State Fault Refusal := .next (pushImmediate 10 imm s)
def execPush11 (imm : Word) (s : State) : Host.Outcome State Fault Refusal := .next (pushImmediate 11 imm s)
def execPush12 (imm : Word) (s : State) : Host.Outcome State Fault Refusal := .next (pushImmediate 12 imm s)
def execPush13 (imm : Word) (s : State) : Host.Outcome State Fault Refusal := .next (pushImmediate 13 imm s)
def execPush14 (imm : Word) (s : State) : Host.Outcome State Fault Refusal := .next (pushImmediate 14 imm s)
def execPush15 (imm : Word) (s : State) : Host.Outcome State Fault Refusal := .next (pushImmediate 15 imm s)
def execPush16 (imm : Word) (s : State) : Host.Outcome State Fault Refusal := .next (pushImmediate 16 imm s)
def execPush17 (imm : Word) (s : State) : Host.Outcome State Fault Refusal := .next (pushImmediate 17 imm s)
def execPush18 (imm : Word) (s : State) : Host.Outcome State Fault Refusal := .next (pushImmediate 18 imm s)
def execPush19 (imm : Word) (s : State) : Host.Outcome State Fault Refusal := .next (pushImmediate 19 imm s)
def execPush20 (imm : Word) (s : State) : Host.Outcome State Fault Refusal := .next (pushImmediate 20 imm s)
def execPush21 (imm : Word) (s : State) : Host.Outcome State Fault Refusal := .next (pushImmediate 21 imm s)
def execPush22 (imm : Word) (s : State) : Host.Outcome State Fault Refusal := .next (pushImmediate 22 imm s)
def execPush23 (imm : Word) (s : State) : Host.Outcome State Fault Refusal := .next (pushImmediate 23 imm s)
def execPush24 (imm : Word) (s : State) : Host.Outcome State Fault Refusal := .next (pushImmediate 24 imm s)
def execPush25 (imm : Word) (s : State) : Host.Outcome State Fault Refusal := .next (pushImmediate 25 imm s)
def execPush26 (imm : Word) (s : State) : Host.Outcome State Fault Refusal := .next (pushImmediate 26 imm s)
def execPush27 (imm : Word) (s : State) : Host.Outcome State Fault Refusal := .next (pushImmediate 27 imm s)
def execPush28 (imm : Word) (s : State) : Host.Outcome State Fault Refusal := .next (pushImmediate 28 imm s)
def execPush29 (imm : Word) (s : State) : Host.Outcome State Fault Refusal := .next (pushImmediate 29 imm s)
def execPush30 (imm : Word) (s : State) : Host.Outcome State Fault Refusal := .next (pushImmediate 30 imm s)
def execPush31 (imm : Word) (s : State) : Host.Outcome State Fault Refusal := .next (pushImmediate 31 imm s)
def execPush32 (imm : Word) (s : State) : Host.Outcome State Fault Refusal := .next (pushImmediate 32 imm s)

/-! DUP1 to DUP16 (R187). -/

def execDup1 (s : State) : Host.Outcome State Fault Refusal := .next (dupThen 1 s (State.advance 1))
def execDup2 (s : State) : Host.Outcome State Fault Refusal := .next (dupThen 2 s (State.advance 1))
def execDup3 (s : State) : Host.Outcome State Fault Refusal := .next (dupThen 3 s (State.advance 1))
def execDup4 (s : State) : Host.Outcome State Fault Refusal := .next (dupThen 4 s (State.advance 1))
def execDup5 (s : State) : Host.Outcome State Fault Refusal := .next (dupThen 5 s (State.advance 1))
def execDup6 (s : State) : Host.Outcome State Fault Refusal := .next (dupThen 6 s (State.advance 1))
def execDup7 (s : State) : Host.Outcome State Fault Refusal := .next (dupThen 7 s (State.advance 1))
def execDup8 (s : State) : Host.Outcome State Fault Refusal := .next (dupThen 8 s (State.advance 1))
def execDup9 (s : State) : Host.Outcome State Fault Refusal := .next (dupThen 9 s (State.advance 1))
def execDup10 (s : State) : Host.Outcome State Fault Refusal := .next (dupThen 10 s (State.advance 1))
def execDup11 (s : State) : Host.Outcome State Fault Refusal := .next (dupThen 11 s (State.advance 1))
def execDup12 (s : State) : Host.Outcome State Fault Refusal := .next (dupThen 12 s (State.advance 1))
def execDup13 (s : State) : Host.Outcome State Fault Refusal := .next (dupThen 13 s (State.advance 1))
def execDup14 (s : State) : Host.Outcome State Fault Refusal := .next (dupThen 14 s (State.advance 1))
def execDup15 (s : State) : Host.Outcome State Fault Refusal := .next (dupThen 15 s (State.advance 1))
def execDup16 (s : State) : Host.Outcome State Fault Refusal := .next (dupThen 16 s (State.advance 1))

/-! SWAP1 to SWAP16 (R188). -/

def execSwap1 (s : State) : Host.Outcome State Fault Refusal := .next (swapThen 1 s (State.advance 1))
def execSwap2 (s : State) : Host.Outcome State Fault Refusal := .next (swapThen 2 s (State.advance 1))
def execSwap3 (s : State) : Host.Outcome State Fault Refusal := .next (swapThen 3 s (State.advance 1))
def execSwap4 (s : State) : Host.Outcome State Fault Refusal := .next (swapThen 4 s (State.advance 1))
def execSwap5 (s : State) : Host.Outcome State Fault Refusal := .next (swapThen 5 s (State.advance 1))
def execSwap6 (s : State) : Host.Outcome State Fault Refusal := .next (swapThen 6 s (State.advance 1))
def execSwap7 (s : State) : Host.Outcome State Fault Refusal := .next (swapThen 7 s (State.advance 1))
def execSwap8 (s : State) : Host.Outcome State Fault Refusal := .next (swapThen 8 s (State.advance 1))
def execSwap9 (s : State) : Host.Outcome State Fault Refusal := .next (swapThen 9 s (State.advance 1))
def execSwap10 (s : State) : Host.Outcome State Fault Refusal := .next (swapThen 10 s (State.advance 1))
def execSwap11 (s : State) : Host.Outcome State Fault Refusal := .next (swapThen 11 s (State.advance 1))
def execSwap12 (s : State) : Host.Outcome State Fault Refusal := .next (swapThen 12 s (State.advance 1))
def execSwap13 (s : State) : Host.Outcome State Fault Refusal := .next (swapThen 13 s (State.advance 1))
def execSwap14 (s : State) : Host.Outcome State Fault Refusal := .next (swapThen 14 s (State.advance 1))
def execSwap15 (s : State) : Host.Outcome State Fault Refusal := .next (swapThen 15 s (State.advance 1))
def execSwap16 (s : State) : Host.Outcome State Fault Refusal := .next (swapThen 16 s (State.advance 1))

end Sys2Proof.Machine
end

