-- ==== Sys2Proof/Machine/Dispatch.lean ====
section
/-! DEFINITION. The instruction's own effect, one arm per constructor, each one call of its meaning. -/

namespace Sys2Proof.Machine

-- The sequencer's work around an instruction (the count, the gas check, the debit) is in Sequencer.lean and Step.lean.
def exec (i : Instr) (s : State) : Host.Outcome State Fault Refusal :=
  match i with
  | .stop => Sys2Proof.Machine.execStop s
  | .add => Sys2Proof.Machine.execAdd s
  | .mul => Sys2Proof.Machine.execMul s
  | .sub => Sys2Proof.Machine.execSub s
  | .div => Sys2Proof.Machine.execDiv s
  | .sdiv => Sys2Proof.Machine.execSdiv s
  | .mod => Sys2Proof.Machine.execMod s
  | .smod => Sys2Proof.Machine.execSmod s
  | .addmod => Sys2Proof.Machine.execAddmod s
  | .mulmod => Sys2Proof.Machine.execMulmod s
  | .exp => Sys2Proof.Machine.execExp s
  | .signextend => Sys2Proof.Machine.execSignextend s
  | .lt => Sys2Proof.Machine.execLt s
  | .gt => Sys2Proof.Machine.execGt s
  | .slt => Sys2Proof.Machine.execSlt s
  | .sgt => Sys2Proof.Machine.execSgt s
  | .eq => Sys2Proof.Machine.execEq s
  | .iszero => Sys2Proof.Machine.execIszero s
  | .and => Sys2Proof.Machine.execAnd s
  | .or => Sys2Proof.Machine.execOr s
  | .xor => Sys2Proof.Machine.execXor s
  | .not => Sys2Proof.Machine.execNot s
  | .byte => Sys2Proof.Machine.execByte s
  | .shl => Sys2Proof.Machine.execShl s
  | .shr => Sys2Proof.Machine.execShr s
  | .sar => Sys2Proof.Machine.execSar s
  | .calldataload => Sys2Proof.Machine.execCalldataload s
  | .pop => Sys2Proof.Machine.execPop s
  | .mload => Sys2Proof.Machine.execMload s
  | .mstore => Sys2Proof.Machine.execMstore s
  | .mstore8 => Sys2Proof.Machine.execMstore8 s
  | .sload => Sys2Proof.Machine.execSload s
  | .sstore => Sys2Proof.Machine.execSstore s
  | .jump => Sys2Proof.Machine.execJump s
  | .jumpi => Sys2Proof.Machine.execJumpi s
  | .pc => Sys2Proof.Machine.execPc s
  | .msize => Sys2Proof.Machine.execMsize s
  | .gas => Sys2Proof.Machine.execGas s
  | .jumpdest => Sys2Proof.Machine.execJumpdest s
  | .mcopy => Sys2Proof.Machine.execMcopy s
  | .push0 => Sys2Proof.Machine.execPush0 s
  | .push1 imm => Sys2Proof.Machine.execPush1 imm s
  | .push2 imm => Sys2Proof.Machine.execPush2 imm s
  | .push3 imm => Sys2Proof.Machine.execPush3 imm s
  | .push4 imm => Sys2Proof.Machine.execPush4 imm s
  | .push5 imm => Sys2Proof.Machine.execPush5 imm s
  | .push6 imm => Sys2Proof.Machine.execPush6 imm s
  | .push7 imm => Sys2Proof.Machine.execPush7 imm s
  | .push8 imm => Sys2Proof.Machine.execPush8 imm s
  | .push9 imm => Sys2Proof.Machine.execPush9 imm s
  | .push10 imm => Sys2Proof.Machine.execPush10 imm s
  | .push11 imm => Sys2Proof.Machine.execPush11 imm s
  | .push12 imm => Sys2Proof.Machine.execPush12 imm s
  | .push13 imm => Sys2Proof.Machine.execPush13 imm s
  | .push14 imm => Sys2Proof.Machine.execPush14 imm s
  | .push15 imm => Sys2Proof.Machine.execPush15 imm s
  | .push16 imm => Sys2Proof.Machine.execPush16 imm s
  | .push17 imm => Sys2Proof.Machine.execPush17 imm s
  | .push18 imm => Sys2Proof.Machine.execPush18 imm s
  | .push19 imm => Sys2Proof.Machine.execPush19 imm s
  | .push20 imm => Sys2Proof.Machine.execPush20 imm s
  | .push21 imm => Sys2Proof.Machine.execPush21 imm s
  | .push22 imm => Sys2Proof.Machine.execPush22 imm s
  | .push23 imm => Sys2Proof.Machine.execPush23 imm s
  | .push24 imm => Sys2Proof.Machine.execPush24 imm s
  | .push25 imm => Sys2Proof.Machine.execPush25 imm s
  | .push26 imm => Sys2Proof.Machine.execPush26 imm s
  | .push27 imm => Sys2Proof.Machine.execPush27 imm s
  | .push28 imm => Sys2Proof.Machine.execPush28 imm s
  | .push29 imm => Sys2Proof.Machine.execPush29 imm s
  | .push30 imm => Sys2Proof.Machine.execPush30 imm s
  | .push31 imm => Sys2Proof.Machine.execPush31 imm s
  | .push32 imm => Sys2Proof.Machine.execPush32 imm s
  | .dup1 => Sys2Proof.Machine.execDup1 s
  | .dup2 => Sys2Proof.Machine.execDup2 s
  | .dup3 => Sys2Proof.Machine.execDup3 s
  | .dup4 => Sys2Proof.Machine.execDup4 s
  | .dup5 => Sys2Proof.Machine.execDup5 s
  | .dup6 => Sys2Proof.Machine.execDup6 s
  | .dup7 => Sys2Proof.Machine.execDup7 s
  | .dup8 => Sys2Proof.Machine.execDup8 s
  | .dup9 => Sys2Proof.Machine.execDup9 s
  | .dup10 => Sys2Proof.Machine.execDup10 s
  | .dup11 => Sys2Proof.Machine.execDup11 s
  | .dup12 => Sys2Proof.Machine.execDup12 s
  | .dup13 => Sys2Proof.Machine.execDup13 s
  | .dup14 => Sys2Proof.Machine.execDup14 s
  | .dup15 => Sys2Proof.Machine.execDup15 s
  | .dup16 => Sys2Proof.Machine.execDup16 s
  | .swap1 => Sys2Proof.Machine.execSwap1 s
  | .swap2 => Sys2Proof.Machine.execSwap2 s
  | .swap3 => Sys2Proof.Machine.execSwap3 s
  | .swap4 => Sys2Proof.Machine.execSwap4 s
  | .swap5 => Sys2Proof.Machine.execSwap5 s
  | .swap6 => Sys2Proof.Machine.execSwap6 s
  | .swap7 => Sys2Proof.Machine.execSwap7 s
  | .swap8 => Sys2Proof.Machine.execSwap8 s
  | .swap9 => Sys2Proof.Machine.execSwap9 s
  | .swap10 => Sys2Proof.Machine.execSwap10 s
  | .swap11 => Sys2Proof.Machine.execSwap11 s
  | .swap12 => Sys2Proof.Machine.execSwap12 s
  | .swap13 => Sys2Proof.Machine.execSwap13 s
  | .swap14 => Sys2Proof.Machine.execSwap14 s
  | .swap15 => Sys2Proof.Machine.execSwap15 s
  | .swap16 => Sys2Proof.Machine.execSwap16 s
  | .log0 => Sys2Proof.Machine.execLog0 s
  | .log1 => Sys2Proof.Machine.execLog1 s
  | .log2 => Sys2Proof.Machine.execLog2 s
  | .log3 => Sys2Proof.Machine.execLog3 s
  | .log4 => Sys2Proof.Machine.execLog4 s
  | .create => Sys2Proof.Machine.execCreate s
  | .call => Sys2Proof.Machine.execCall s
  | .callcode => Sys2Proof.Machine.execCallcode s
  | .ret => Sys2Proof.Machine.execRet s
  | .delegatecall => Sys2Proof.Machine.execDelegatecall s
  | .create2 => Sys2Proof.Machine.execCreate2 s
  | .staticcall => Sys2Proof.Machine.execStaticcall s
  | .revert => Sys2Proof.Machine.execRevert s
  | .selfdestruct => Sys2Proof.Machine.execSelfdestruct s

end Sys2Proof.Machine
end

