-- ==== Sys2Proof/Machine/Sequencer.lean ====
section
/-! DEFINITION. The sequencer (the instruction_decoder): one step's work around the instruction (spec/44_control.md R220 to
R223), the decode classes (spec/30_encoding.md R96), and the resumption of a caller (spec/45_frames_external.md R255, R256).
Sys2Proof/Machine/Step.lean only puts these together. -/

namespace Sys2Proof.Machine

/-- The gas category of an in-block instruction (spec/30_encoding.md R95, R100); none for an external one. -/
def inBlockCategory : Instr → Option GasCategory
  | .add | .mul | .sub | .div | .sdiv | .mod | .smod | .addmod | .mulmod | .exp => some .arithCompare
  | .signextend | .lt | .gt | .slt | .sgt | .eq | .iszero | .and | .or | .xor => some .arithCompare
  | .not | .byte | .shl | .shr | .sar => some .arithCompare
  | .mload | .mstore | .mstore8 | .msize | .mcopy => some .memory
  | .stop | .jump | .jumpi | .pc | .gas | .jumpdest | .ret | .revert => some .controlFlow
  | .pop | .push0 | .push1 _ | .push2 _ | .push3 _ | .push4 _ | .push5 _ | .push6 _ | .push7 _ | .push8 _ => some .stackManip
  | .push9 _ | .push10 _ | .push11 _ | .push12 _ | .push13 _ | .push14 _ | .push15 _ | .push16 _ | .push17 _ | .push18 _ => some .stackManip
  | .push19 _ | .push20 _ | .push21 _ | .push22 _ | .push23 _ | .push24 _ | .push25 _ | .push26 _ | .push27 _ | .push28 _ => some .stackManip
  | .push29 _ | .push30 _ | .push31 _ | .push32 _ | .dup1 | .dup2 | .dup3 | .dup4 | .dup5 | .dup6 => some .stackManip
  | .dup7 | .dup8 | .dup9 | .dup10 | .dup11 | .dup12 | .dup13 | .dup14 | .dup15 | .dup16 => some .stackManip
  | .swap1 | .swap2 | .swap3 | .swap4 | .swap5 | .swap6 | .swap7 | .swap8 | .swap9 | .swap10 => some .stackManip
  | .swap11 | .swap12 | .swap13 | .swap14 | .swap15 | .swap16 => some .stackManip
  | .calldataload | .sload | .sstore | .log0 | .log1 | .log2 | .log3 | .log4 | .create | .call => none
  | .callcode | .delegatecall | .create2 | .staticcall | .selfdestruct => none

/-- The decode class of a byte (spec/30_encoding.md R96), with the gas category of those that have one. -/
inductive OpClass where
  | inBlock (cat : GasCategory)
  | ext (cat : GasCategory)
  | notImpl
  | unassigned
  deriving DecidableEq, Repr

/-- The in-block map: the category of a byte in the table of R95, where 0x5F counts only when PUSH0_MODE = PushZero (R94). -/
def inBlockByte (p : Params) (b : Byte) : Option GasCategory :=
  if b = 0x5F ∧ p.push0Mode = .unassigned then none else (opcodeRow b).bind inBlockCategory

/-- `decode(b)` of R96: in-block, else external, else not implemented, else unassigned; total on every byte (R105). -/
def classify (p : Params) (b : Byte) : OpClass :=
  match inBlockByte p b with
  | some cat => .inBlock cat
  | none =>
    match p.extOpcodes.lookup b with
    | some cat => .ext cat
    | none => if b ∈ p.notImplOpcodes then .notImpl else .unassigned

/-- The category whose cost is checked and may be debited: that of an in-block or external byte (R220). -/
def gasCategory (p : Params) (b : Byte) : Option GasCategory :=
  match classify p b with
  | .inBlock cat => some cat
  | .ext cat => some cat
  | .notImpl => none
  | .unassigned => none

/-- `GAS_COST(cat)`. -/
def State.cost (s : State) (cat : GasCategory) : Nat := s.params.gasCost.at cat

/-- The external instruction of the opcode table that a byte stands for; none for a byte of EXT_OPCODES outside it. -/
def externalRow (b : Byte) : Option Instr := (opcodeRow b).filter fun i => inBlockCategory i == none

/-- What one step has come to before the instruction itself. -/
inductive Turn where
  /-- The step is over: a halt, an error before the instruction, a resumption, or no step at all. -/
  | settled (o : Host.Outcome State Fault Refusal)
  /-- This instruction of the opcode table is performed on this state: counted, its gas checked. -/
  | perform (i : Instr) (s : State)
  /-- This external byte, which no row of the opcode table names, is handed to its unit (R98, R250). -/
  | performByte (b : Byte) (s : State)

/-- The debit of a successful instruction, floored at 0 (R223). -/
def chargeGas (cat : GasCategory) (s : State) : State :=
  if s.params.gasDebit.at cat then s.setGas (BitVec.ofNat 64 (s.gas.toNat - s.cost cat)) else s

/-- The debit after the instruction at `before.pc`: made when the instruction raised nothing and is complete. A call that has
entered a frame is not complete; its debit follows its FRAME_EXIT (R220, R223). -/
def debitAfter (before after : State) : State :=
  if after.status = .running ∧ after.depth = before.depth then
    match gasCategory before.params before.opByte with
    | some cat => chargeGas cat after
    | none => after
  else after

/-- The end of a step that performed an instruction from the state `before`. -/
def conclude (before : State) : Host.Outcome State Fault Refusal → Host.Outcome State Fault Refusal
  | .next t => .next (debitAfter before t)
  | .fault r => .fault r
  | .refused r => .refused r

/-- The instruction at the program counter, its class and gas having been checked; a truncated PUSH raises BytecodeBounds
(spec/30_encoding.md R93, spec/60_exceptions.md R276). -/
def fetchInBlock (s : State) : Turn :=
  match decode (s.code.drop s.pc) with
  | .ok (i, _) => .perform i s
  | .error _ => .settled (.next (raise .bytecodeBounds s))

/-- The external instruction at the program counter. -/
def fetchExternal (b : Byte) (s : State) : Turn :=
  match externalRow b with
  | some i => .perform i s
  | none => .performByte b s

/-- The gas check: before the instruction, nothing popped or written (R222). -/
def gasCheck (cat : GasCategory) (s : State) (go : Turn) : Turn :=
  if s.gas.toNat < s.cost cat then .settled (.next (raise .outOfGas s)) else go

/-- One opcode byte dispatched, already counted (R220; the order of the errors is that of spec/60_exceptions.md R276). -/
def dispatchByte (b : Byte) (s : State) : Turn :=
  match classify s.params b with
  | .unassigned => .settled (.next (raise (.invalidOpcode b) s))
  | .notImpl => .settled (.next (raise (.notImplemented b) s))
  | .inBlock cat => gasCheck cat s (fetchInBlock s)
  | .ext cat => gasCheck cat s (fetchExternal b s)

/-- The step of a running frame: the implicit halt at the end of the code (R221), or the next opcode byte, counted. -/
def runTurn (s : State) : Turn :=
  match s.code[s.pc]? with
  | none => .settled (.next (s.setStatus (.halted .success)))
  | some b => dispatchByte b s.counted

/-- The step of a halted inner frame: FRAME_EXIT, then the end of the call or create opcode at the restored program counter,
then its own debit (spec/45_frames_external.md R255, R256; R223). -/
def resumeCaller (h : Halt) (s : State) : Host.Outcome State Fault Refusal :=
  match frameExit s with
  | some t => .next (debitAfter t (finishCall t.opByte (decide (h = .success)) s t))
  | none => .fault .snapshotMissing

/-- One step before its instruction: a running frame dispatches, a halted inner frame is consumed by FRAME_EXIT, and a halted
frame at depth 0 has ended the run (spec/10_state.md R32, spec/70_reset_and_hazards.md R303). -/
def turn (s : State) : Turn :=
  match s.status with
  | .running => runTurn s
  | .halted h => if s.depth = 0 then .settled (.fault .runEnded) else .settled (resumeCaller h s)

/-- s with the bytes of an instruction stored at its program counter. -/
def placeAtPc (s : State) (bytes : List Byte) : State :=
  { s with
    code := (s.code ++ List.replicate (s.pc - s.code.length) 0).take s.pc ++ bytes
      ++ s.code.drop (s.pc + bytes.length) }

end Sys2Proof.Machine
end

