-- ==== Sys2Proof/Machine/Step.lean ====
section
/-! DEFINITION. One step of the block: the sequencer's turn (Sequencer.lean) around the instruction (Dispatch.lean)
(spec/44_control.md R220). -/

namespace Sys2Proof.Machine

/-- One step (R220). -/
def step (s : State) : Host.Outcome State Fault Refusal :=
  match turn s with
  | .settled o => o
  | .perform i t => conclude t (exec i t)
  | .performByte b t => conclude t (.next (externalOp b t))

/-- s with the instruction of the opcode table's bits w stored where step fetches next, at the program counter in F.code.
It stands for the host's load of the code (spec/70_reset_and_hazards.md R301; log entry 4). -/
def State.withFetchWord (s : State) (nbits w : Nat) : State := placeAtPc s (tableBytes nbits w)

end Sys2Proof.Machine
end

