-- ==== Sys2Proof/Machine/HostView.lean ====
section
/-! DEFINITION. What the host reads of the block: the error codes, the debug view and the yield of a run
(spec/60_exceptions.md R270, R274, R284; spec/10_state.md R42; spec/70_reset_and_hazards.md R303). Reading changes no state. -/

namespace Sys2Proof.Machine

/-- The spec's own numbering of the error kinds (R270). -/
def ErrorKind.code : ErrorKind → Nat
  | .bytecodeBounds => 0
  | .outOfGas => 1
  | .stackOverflow => 2
  | .stackUnderflow => 3
  | .stackTooDeep => 4
  | .accountNotFound => 5
  | .codeNotFound => 6
  | .emptyCode => 7
  | .emptyBytecode => 8
  | .insufficientBalance => 9
  | .staticViolation => 10
  | .operationNotAllowed => 11
  | .invalidJumpDestination => 12
  | .invalidOpcode _ => 13
  | .notImplemented _ => 14
  | .revertWithData _ => 15
  | .revertWithoutData => 16
  | .providerError => 17

/-- The debug surface: the stack, top to bottom, and the memory in 32-byte zero-padded chunks (R42, R284). The accounts it
also shows belong to the World State, outside the block (R41). -/
structure DebugView where
  stack : List Word
  memory : List (List Byte)
  deriving DecidableEq, Repr

/-- The read-only view of the frame register (R42). -/
def debugView (s : State) : DebugView where
  stack := s.stack
  memory := (List.range (s.mem.size / 32)).map fun k => s.mem.readBytes (32 * k) 32

/-- What a run yields (R303), the World State apart. -/
structure RunResult where
  outcome : Halt
  stack : List Word
  mem : Memory
  returndata : List Byte
  report : Option Report
  deriving DecidableEq, Repr

/-- The yield of a run that has ended, which is a halted status at depth 0; the report is meaningful only if the outcome is an
error, and is withheld otherwise (R274, R303). -/
def runResult (s : State) : Option RunResult :=
  match s.status with
  | .running => none
  | .halted h =>
    if s.depth = 0 then
      some { outcome := h, stack := s.stack, mem := s.mem, returndata := s.returndata,
             report := if h = .success then none else s.report }
    else none

end Sys2Proof.Machine
end

