-- ==== Sys2Proof/Safety.lean ====
section
/-! DEFINITION. What counts as a good state and a safe run, in the terms the statements use. -/

namespace Sys2Proof.Machine

/-- A saved frame is good: its stack below the limit, so that the flag push cannot overflow, its memory canonical, and its
program counter at the call opcode, inside its code (spec/10_state.md R22, R23, R34; spec/45_frames_external.md R256). -/
structure Snapshot.Good (n : Snapshot) : Prop where
  stack_lt : n.stack.length < stackLimit
  mem_wf : n.mem.wf = true
  pc_lt : n.pc < n.code.length

/-- The report latch names the error the frame halted with, at an opcode inside the code (spec/10_state.md R33,
spec/60_exceptions.md R274). -/
def State.ReportMatches (s : State) : Prop :=
  ∀ e, s.status = .halted (.error e) →
    s.pc < s.code.length ∧ s.report = some { pc := s.pc, op := s.opByte, err := e, count := s.count }

/-- The machine's invariant: the stack limit (R22), the memory's canonical form with a length that is a multiple of 32
(R23, R62), a program counter that never exceeds L (R24), one snapshot per call depth (R34), good snapshots, and a report that
matches an error halt (R33). -/
structure State.Inv (s : State) : Prop where
  stack_le : s.stack.length ≤ stackLimit
  mem_wf : s.mem.wf = true
  pc_le : s.pc ≤ s.code.length
  save_depth : s.save.length = s.depth
  saved : ∀ n ∈ s.save, n.Good
  report : s.ReportMatches

/-- The run has ended: a halted status at depth 0 (spec/70_reset_and_hazards.md R303). -/
def State.Ended (s : State) : Prop := s.depth = 0 ∧ s.status ≠ .running

/-- The frame halted with an error. -/
def State.Failed (s : State) : Prop := ∃ e, s.status = .halted (.error e)

/-- u is reached from s by steps that all leave the depth at d or above: the run of a frame at depth d and of the frames it
calls (spec/45_frames_external.md R254). -/
inductive RunsAbove (d : Nat) : State → State → Prop
  | refl (s : State) : d ≤ s.depth → RunsAbove d s s
  | tail (s t u : State) : RunsAbove d s t → step t = .next u → d ≤ u.depth → RunsAbove d s u

end Sys2Proof.Machine
end

