-- ==== Sys2Proof/Certificates/Slice0/Obligations.lean ====
section
/-! DEFINITION. The statements for the provers, and the vocabulary they share. Each docstring names the rules of spec/ its
statement formalises, or the log entry it rests on. -/

open Sys2Proof Sys2Proof.Machine

/-! Vocabulary. -/

namespace Sys2Proof.Claims

/-- The error a byte's category may meet before its instruction: too little gas, and nothing popped or written but the count
(spec/44_control.md R222). -/
def OutOfGasFirst (op : Byte) (cat : GasCategory) : Prop :=
  ∀ s : State, s.status = .running → s.code[s.pc]? = some op → s.gas.toNat < s.params.gasCost.at cat →
    step s = .next (raise .outOfGas { s with count := s.count + 1 })

/-- An ALU instruction with one operand, byte `op`, whose result stands in relation R to it: its encoding, its completion
(with everything it leaves unchanged), its underflow, and the sequencer's OutOfGas (spec/40_alu_arith.md R118). -/
def Alu1Rule (i : Instr) (op : Byte) (R : Word → Word → Prop) : Prop :=
  encode i = [op] ∧
  (∀ (s : State) (a : Word) (rest : List Word), s.stack = a :: rest → s.stack.length ≤ 1024 →
    ∃ r, R a r ∧ exec i s = .next { s with stack := r :: rest, pc := s.pc + 1 }) ∧
  (∀ s : State, s.stack = [] → exec i s = .next (raise .stackUnderflow s)) ∧
  OutOfGasFirst op .arithCompare

/-- The same with two operands; an underflow leaves the operands already popped removed (R118). -/
def Alu2Rule (i : Instr) (op : Byte) (R : Word → Word → Word → Prop) : Prop :=
  encode i = [op] ∧
  (∀ (s : State) (a b : Word) (rest : List Word), s.stack = a :: b :: rest → s.stack.length ≤ 1024 →
    ∃ r, R a b r ∧ exec i s = .next { s with stack := r :: rest, pc := s.pc + 1 }) ∧
  (∀ s : State, s.stack.length < 2 → exec i s = .next (raise .stackUnderflow { s with stack := [] })) ∧
  OutOfGasFirst op .arithCompare

/-- The same with three operands (R118). -/
def Alu3Rule (i : Instr) (op : Byte) (R : Word → Word → Word → Word → Prop) : Prop :=
  encode i = [op] ∧
  (∀ (s : State) (a b c : Word) (rest : List Word), s.stack = a :: b :: c :: rest → s.stack.length ≤ 1024 →
    ∃ r, R a b c r ∧ exec i s = .next { s with stack := r :: rest, pc := s.pc + 1 }) ∧
  (∀ s : State, s.stack.length < 3 → exec i s = .next (raise .stackUnderflow { s with stack := [] })) ∧
  OutOfGasFirst op .arithCompare

/-- The gas after the debit of a category: less its cost, floored at 0, if GAS_DEBIT says so (spec/44_control.md R223). -/
def gasAfter (s : State) (cat : GasCategory) : BitVec 64 :=
  if s.params.gasDebit.at cat then BitVec.ofNat 64 (s.gas.toNat - s.params.gasCost.at cat) else s.gas

/-- The memory length after an access to `[off, off+n)`: unchanged for an empty range, else the smallest multiple of 32 that
covers the old length and the range (spec/20_memory.md R63, R64). It may pass a MEM_LIMIT that is no multiple of 32 (log
entry 30). -/
def grownSize (old off n : Nat) : Nat := if n = 0 then old else max old (32 * ((off + n + 31) / 32))

/-- Whether an access to `[off, off+n)` passes the limit (R64, R65). -/
def Fits (s : State) (off n : Nat) : Prop := n = 0 ∨ off + n ≤ s.params.memLimit

/-- The in-block table of spec/30_encoding.md R95: the gas category of an in-block byte. -/
def r95Category (push0 : Push0Mode) (n : Nat) : Option GasCategory :=
  if n = 0x00 ∨ n = 0x56 ∨ n = 0x57 ∨ n = 0x58 ∨ n = 0x5A ∨ n = 0x5B ∨ n = 0xF3 ∨ n = 0xFD then some .controlFlow
  else if (0x01 ≤ n ∧ n ≤ 0x0B) ∨ (0x10 ≤ n ∧ n ≤ 0x1D) then some .arithCompare
  else if n = 0x51 ∨ n = 0x52 ∨ n = 0x53 ∨ n = 0x59 ∨ n = 0x5E then some .memory
  else if n = 0x5F then (if push0 = .pushZero then some .stackManip else none)
  else if n = 0x50 ∨ (0x60 ≤ n ∧ n ≤ 0x9F) then some .stackManip
  else none

/-- `OPS(code)` of spec/44_control.md R224, as the rule defines it. -/
inductive OpcodePosition (code : List Byte) : Nat → Prop
  | zero : 0 < code.length → OpcodePosition code 0
  | next (p : Nat) (b : Byte) : OpcodePosition code p → code[p]? = some b →
      p + (if 0x60 ≤ b.toNat ∧ b.toNat ≤ 0x7F then 1 + (b.toNat - 0x5F) else 1) < code.length →
      OpcodePosition code (p + (if 0x60 ≤ b.toNat ∧ b.toNat ≤ 0x7F then 1 + (b.toNat - 0x5F) else 1))

/-- A valid jump target (R224). -/
def ValidTarget (s : State) (t : Nat) : Prop :=
  t < s.code.length ∧ s.code[t]? = some 0x5B ∧
    (s.params.jumpdestAnalysis = .rawByte ∨ OpcodePosition s.code t)

/-- DUP1 to DUP16 with their n. -/
def dups : List (Nat × Instr) :=
  [(1, .dup1), (2, .dup2), (3, .dup3), (4, .dup4), (5, .dup5), (6, .dup6), (7, .dup7), (8, .dup8), (9, .dup9),
   (10, .dup10), (11, .dup11), (12, .dup12), (13, .dup13), (14, .dup14), (15, .dup15), (16, .dup16)]

/-- SWAP1 to SWAP16 with their n. -/
def swaps : List (Nat × Instr) :=
  [(1, .swap1), (2, .swap2), (3, .swap3), (4, .swap4), (5, .swap5), (6, .swap6), (7, .swap7), (8, .swap8), (9, .swap9),
   (10, .swap10), (11, .swap11), (12, .swap12), (13, .swap13), (14, .swap14), (15, .swap15), (16, .swap16)]

/-- The kind of a DUP or SWAP depth failure (spec/42_stack.md R182, R183). -/
def depthKind (s : State) : ErrorKind :=
  if s.params.dupSwapError = .stackUnderflow then .stackUnderflow else .stackTooDeep

/-- Push the words in order. -/
def pushAll : List Word → State → (State → State) → State
  | [], s, k => k s
  | w :: ws, s, k => pushThen w s fun t => pushAll ws t k

/-- Pop n words and hand them on, after those already popped, in the order popped. -/
def popAll : Nat → List Word → State → (List Word → State → State) → State
  | 0, popped, s, k => k popped s
  | n + 1, popped, s, k => popThen s fun w t => popAll n (popped ++ [w]) t k

/-- The external opcodes that enter no frame, with their bytes (spec/30_encoding.md R98). -/
def plainExternals : List (Instr × Byte) :=
  [(.calldataload, 0x35), (.sload, 0x54), (.sstore, 0x55), (.log0, 0xA0), (.log1, 0xA1), (.log2, 0xA2), (.log3, 0xA3),
   (.log4, 0xA4), (.selfdestruct, 0xFF)]

/-- The four call opcodes with their bytes. -/
def calls : List (Instr × Byte) := [(.call, 0xF1), (.callcode, 0xF2), (.delegatecall, 0xF4), (.staticcall, 0xFA)]

/-- The two create opcodes with their bytes. -/
def creates : List (Instr × Byte) := [(.create, 0xF0), (.create2, 0xF5)]

/-- What every outcome of an external opcode that enters no frame keeps (spec/45_frames_external.md R251): the stack limit,
memory that never shrinks and stays canonical, the code, on success a program counter one on or at L, on error an error of
R270 latched with the program counter unchanged; and the fields the unit has no primitive for (log entry 7). -/
structure KeepsUnitRules (s t : State) : Prop where
  stack : s.stack.length ≤ 1024 → t.stack.length ≤ 1024
  mem : s.mem.wf = true → t.mem.wf = true ∧ s.mem.size ≤ t.mem.size ∧ t.mem.size % 32 = 0
  code : t.code = s.code
  gas : t.gas = s.gas
  count : t.count = s.count
  frame : t.params = s.params ∧ t.address = s.address ∧ t.origin = s.origin ∧ t.caller = s.caller ∧
    t.callvalue = s.callvalue ∧ t.calldata = s.calldata ∧ t.depth = s.depth ∧ t.save = s.save
  ending : (t.status = s.status ∧ t.report = s.report ∧ (t.pc = s.pc + 1 ∨ t.pc = s.code.length)) ∨
    (∃ e, t.status = .halted (.error e) ∧ t.pc = s.pc ∧
      t.report = some { pc := s.pc, op := s.opByte, err := e, count := s.count })

/-- Every region memory is grown to cover before a frame, the input region last (spec/45_frames_external.md R252). -/
def regions (f : CallFrame) : List (Word × Word) := f.grown ++ [(f.inOff, f.inSize)]

/-- The call unit gets as far as FRAME_ENTER from s: its operands are there and its regions are within the limit. -/
def ReachesFrame (f : CallFrame) (s : State) : Prop :=
  f.moreOperands + 1 ≤ s.stack.length ∧ ∀ r ∈ regions f, Fits s r.1.toNat r.2.toNat

/-- s after a call unit has popped its operands and grown memory over its regions. -/
def operandsTaken (f : CallFrame) (s : State) : State :=
  { s with
    stack := s.stack.drop (f.moreOperands + 1)
    mem := ⟨(regions f).foldl (fun size r => grownSize size r.1.toNat r.2.toNat) s.mem.size, s.mem.cells⟩ }

/-- The state a call or create opcode of byte b leaves when it enters a frame on code c from s (R252, R253). -/
def entered (b : Byte) (f : CallFrame) (c : List Byte) (s : State) : State :=
  { s with
    save := s.save ++ [{ caller := s.caller, callvalue := s.callvalue, address := s.address, calldata := s.calldata,
                         returndata := s.returndata, mem := (operandsTaken f s).mem,
                         stack := (operandsTaken f s).stack, pc := s.pc, code := s.code }]
    caller := if b = 0xF1 ∨ b = 0xFA then s.address else if b = 0xF2 ∨ b = 0xF4 then s.caller else f.env.caller
    address := if b = 0xF2 ∨ b = 0xF4 then s.address else f.env.address
    callvalue := f.env.callvalue
    depth := s.depth + 1
    calldata :=
      if b = 0xF0 ∨ b = 0xF5 ∨ s.params.innerCalldata = .empty then []
      else (List.range f.inSize.toNat).map fun j => s.mem.read (f.inOff.toNat + j)
    returndata := []
    mem := ⟨0, []⟩
    stack := []
    pc := 0
    code := c
    status := .running }

end Sys2Proof.Claims

open Sys2Proof.Claims

/-! Encoding and decoding (spec/30_encoding.md). -/

/-- Every well-formed instruction, with every immediate its field admits, decodes from its own bytes (R90 to R92, R95, R98). -/
def Obligations.DecodeOfEncode : Prop :=
  ∀ (i : Instr) (rest : List Byte), i.wellFormed = true → decode (encode i ++ rest) = .ok (i, rest)

/-- What the decoder reads is well formed and has exactly the bytes it was read from: no two byte sequences share an
instruction. -/
def Obligations.EncodeOfDecode : Prop :=
  ∀ (bytes : List Byte) (i : Instr) (rest : List Byte), decode bytes = .ok (i, rest) →
    i.wellFormed = true ∧ encode i ++ rest = bytes

/-- Words written out from the spec's own encodings (R91, R92, R95, and the examples of R92 and R121) decode to the
instructions they stand for. -/
def Obligations.SpecBytesDecode : Prop :=
  decode [0x60, 0x01] = .ok (.push1 1, []) ∧
  decode [0x61, 0x01, 0x02] = .ok (.push2 0x0102, []) ∧
  decode [0x01, 0x00] = .ok (.add, [0x00]) ∧
  decode [0x00] = .ok (.stop, []) ∧
  decode [0x35] = .ok (.calldataload, []) ∧
  decode [0x8F] = .ok (.dup16, []) ∧
  decode [0x90] = .ok (.swap1, []) ∧
  decode [0xFD] = .ok (.revert, [])

/-- R92: the immediate of PUSHn is the big-endian sum of its n bytes, and its top 32-n bytes are zero. -/
def Obligations.PushImmediateIsBigEndian : Prop :=
  ∀ (n : Nat) (bytes rest : List Byte), 1 ≤ n → n ≤ 32 → bytes.length = n →
    ∃ (i : Instr) (imm : Word), decode (BitVec.ofNat 8 (0x5F + n) :: (bytes ++ rest)) = .ok (i, rest) ∧
      i.pushParts = some (n, imm) ∧
      imm.toNat = ∑ j ∈ Finset.range n, (bytes.getD j 0).toNat * 256 ^ (n - 1 - j) ∧
      imm.toNat < 256 ^ n

/-- R91: an instruction's length follows from its opcode byte alone; PUSHn is 0x5F + n, and no other byte starts a PUSH. -/
def Obligations.LengthFromOpcodeByte : Prop :=
  ∀ (b : Byte) (tail rest : List Byte) (i : Instr), decode (b :: tail) = .ok (i, rest) →
    (b :: tail).length = (if 0x60 ≤ b.toNat ∧ b.toNat ≤ 0x7F then 1 + (b.toNat - 0x5F) else 1) + rest.length ∧
    (i.pushParts.map Prod.fst = if 0x60 ≤ b.toNat ∧ b.toNat ≤ 0x7F then some (b.toNat - 0x5F) else none)

/-- R96: the class of every byte, by the table of R95, then EXT_OPCODES, then NOT_IMPL_OPCODES, else unassigned; the category
of a byte is that of R95 (R100) or EXT_CATEGORY. -/
def Obligations.DecodeClassOfEveryByte : Prop :=
  ∀ (p : Params) (b : Byte),
    classify p b =
      match r95Category p.push0Mode b.toNat with
      | some cat => .inBlock cat
      | none =>
        match p.extOpcodes.lookup b with
        | some cat => .ext cat
        | none => if b ∈ p.notImplOpcodes then .notImpl else .unassigned

/-! The sequencer (spec/44_control.md R220 to R223, spec/30_encoding.md R97, R99). -/

/-- R97, R99: a byte outside the table of R95 and EXT_OPCODES raises NotImplemented with the byte if it is in NOT_IMPL_OPCODES,
else InvalidOpcode with the byte: no gas is checked, nothing is popped, pc stays, and the byte is counted. -/
def Obligations.UnmappedByteRaisesItsError : Prop :=
  ∀ (s : State) (b : Byte) (e : ErrorKind), s.status = .running → s.code[s.pc]? = some b →
    r95Category s.params.push0Mode b.toNat = none → s.params.extOpcodes.lookup b = none →
    e = (if b ∈ s.params.notImplOpcodes then .notImplemented b else .invalidOpcode b) →
    step s = .next { s with
      count := s.count + 1
      status := .halted (.error e)
      report := some { pc := s.pc, op := b, err := e, count := s.count + 1 } }

/-- R220: when the bytes at the program counter decode to an instruction of an in-block or external class and the gas check
passes, a step is exec of that instruction on the counted state, then the sequencer's debit; and an external byte that no row
of the table names goes to its unit in the same way. -/
def Obligations.StepRunsDecodedInstruction : Prop :=
  ∀ (s : State) (b : Byte) (cat : GasCategory), s.status = .running → s.code[s.pc]? = some b →
    s.params.gasCost.at cat ≤ s.gas.toNat →
    (classify s.params b = .inBlock cat → ∀ (i : Instr) (rest : List Byte), decode (s.code.drop s.pc) = .ok (i, rest) →
      step s = conclude s.counted (exec i s.counted)) ∧
    (classify s.params b = .ext cat → ∀ (i : Instr) (rest : List Byte), decode (s.code.drop s.pc) = .ok (i, rest) →
      (i, b) ∈ plainExternals ++ calls ++ creates → step s = conclude s.counted (exec i s.counted)) ∧
    (classify s.params b = .ext cat → (∀ i, (i, b) ∉ plainExternals ++ calls ++ creates) →
      step s = conclude s.counted (.next (externalOp b s.counted)))

/-- R221: at `pc ≥ L` a step halts the frame with success and changes no other field, the count among them; STOP and a
completed RETURN leave `pc = L`, so the next step is this one. -/
def Obligations.ImplicitHaltAtEndOfCode : Prop :=
  (∀ s : State, s.status = .running → s.code.length ≤ s.pc →
    step s = .next { s with status := .halted .success }) ∧
  (∀ s t : State, exec .stop s = .next t → t.pc = t.code.length) ∧
  (∀ s t : State, s.status = .running → exec .ret s = .next t → t.status = .running → t.pc = t.code.length)

/-- R222: with less gas than the flat cost of an in-block or external byte's category the step raises OutOfGas, which pops
nothing, writes nothing but the count and leaves pc at the instruction. With at least the cost the instruction executes: the
step performs the byte's instruction, or hands the byte to its unit, or, where a PUSH's immediate is cut off by the end of the
code, has the PUSH's own error. -/
def Obligations.GasCheckBeforeInstruction : Prop :=
  ∀ (s : State) (b : Byte) (cat : GasCategory), s.status = .running → s.code[s.pc]? = some b →
    (classify s.params b = .inBlock cat ∨ classify s.params b = .ext cat) →
    (s.gas.toNat < s.params.gasCost.at cat →
      step s = .next { s with
        count := s.count + 1
        status := .halted (.error .outOfGas)
        report := some { pc := s.pc, op := b, err := .outOfGas, count := s.count + 1 } }) ∧
    (s.params.gasCost.at cat ≤ s.gas.toNat →
      (∃ i : Instr, i.opcode = b ∧ step s = conclude s.counted (exec i s.counted)) ∨
      (classify s.params b = .ext cat ∧ step s = conclude s.counted (.next (externalOp b s.counted))) ∨
      (0x60 ≤ b.toNat ∧ b.toNat ≤ 0x7F ∧ s.code.length ≤ s.pc + (b.toNat - 0x5F) ∧
        step s = .next (raise .bytecodeBounds s.counted)))

/-- R223: an instruction that succeeds and is complete debits its category's cost, floored at 0, exactly when GAS_DEBIT says so;
one that fails debits nothing, and a call that has entered a frame nothing yet (log entry 23); an external byte that no row of
the table names is debited in the same way; and with GAS_DEBIT false everywhere no step changes the gas. -/
def Obligations.GasDebitAfterSuccess : Prop :=
  (∀ (s t u : State) (b : Byte) (cat : GasCategory) (i : Instr) (rest : List Byte), s.status = .running →
    s.code[s.pc]? = some b →
    (classify s.params b = .inBlock cat ∨
      (classify s.params b = .ext cat ∧ (i, b) ∈ plainExternals ++ calls ++ creates)) →
    s.params.gasCost.at cat ≤ s.gas.toNat →
    decode (s.code.drop s.pc) = .ok (i, rest) → exec i s.counted = .next u → step s = .next t →
    (u.status = .running → u.depth = s.depth → t = { u with gas := gasAfter s cat }) ∧
    (u.status ≠ .running ∨ u.depth ≠ s.depth → t = u ∧ t.gas = s.gas)) ∧
  (∀ (s t u : State) (b : Byte) (cat : GasCategory), s.status = .running → s.code[s.pc]? = some b →
    classify s.params b = .ext cat → (∀ i, (i, b) ∉ plainExternals ++ calls ++ creates) →
    s.params.gasCost.at cat ≤ s.gas.toNat → externalOp b s.counted = u → step s = .next t →
    (u.status = .running → t = { u with gas := gasAfter s cat }) ∧ (u.status ≠ .running → t = u ∧ t.gas = s.gas)) ∧
  (∀ s t : State, (∀ cat, s.params.gasDebit.at cat = false) → step s = .next t → t.gas = s.gas)

/-! Arithmetic (spec/40_alu_arith.md). -/

/-- R121, R122, R123: ADD, MUL and SUB wrap modulo 2^256; the top of the stack is SUB's minuend. -/
def Obligations.AddMulSubWrap : Prop :=
  Alu2Rule .add 0x01 (fun a b r => r.toNat = (a.toNat + b.toNat) % 2 ^ 256) ∧
  Alu2Rule .mul 0x02 (fun a b r => r.toNat = (a.toNat * b.toNat) % 2 ^ 256) ∧
  Alu2Rule .sub 0x03 (fun a b r => (r.toNat : Int) = ((a.toNat : Int) - (b.toNat : Int)) % 2 ^ 256)

/-- R124, R126: DIV and MOD, unsigned, 0 for a divisor of 0. -/
def Obligations.UnsignedDivMod : Prop :=
  Alu2Rule .div 0x04 (fun a b r => (b = 0 → r = 0) ∧ (b ≠ 0 → r.toNat = a.toNat / b.toNat)) ∧
  Alu2Rule .mod 0x06 (fun a b r => (b = 0 → r = 0) ∧ (b ≠ 0 → r.toNat = a.toNat % b.toNat))

/-- R125, R127: SDIV rounds toward zero and wraps its one overflow; SMOD has the dividend's sign and a magnitude below the
divisor's; both give 0 for a divisor of 0. -/
def Obligations.SignedDivMod : Prop :=
  Alu2Rule .sdiv 0x05 (fun a b r => (b = 0 → r = 0) ∧ (b ≠ 0 →
    r = BitVec.ofInt 256 (a.toInt.sign * b.toInt.sign * ((a.toInt.natAbs / b.toInt.natAbs : Nat) : Int)))) ∧
  Alu2Rule .smod 0x07 (fun a b r => (b = 0 → r = 0) ∧ (b ≠ 0 →
    r.toInt = a.toInt.sign * ((a.toInt.natAbs % b.toInt.natAbs : Nat) : Int) ∧ r.toInt.natAbs < b.toInt.natAbs))

/-- R128, R129: ADDMOD and MULMOD reduce the exact sum and product; 0 for a modulus of 0. -/
def Obligations.ExactModularArithmetic : Prop :=
  Alu3Rule .addmod 0x08 (fun a b c r => (c = 0 → r = 0) ∧ (c ≠ 0 → r.toNat = (a.toNat + b.toNat) % c.toNat)) ∧
  Alu3Rule .mulmod 0x09 (fun a b c r => (c = 0 → r = 0) ∧ (c ≠ 0 → r.toNat = (a.toNat * b.toNat) % c.toNat))

/-- R130: EXP is exponentiation modulo 2^256 for every exponent (the model computes it by repeated squaring, log entry 21). -/
def Obligations.ExpIsPower : Prop :=
  Alu2Rule .exp 0x0A (fun a b r => r.toNat = a.toNat ^ b.toNat % 2 ^ 256)

/-- R131: SIGNEXTEND copies the top bit of byte k into every bit above it, and keeps x for an index of 31 or more. -/
def Obligations.SignextendCopiesSignBit : Prop :=
  Alu2Rule .signextend 0x0B (fun k x r => (31 ≤ k.toNat → r = x) ∧ (k.toNat < 31 →
    ∀ j < 256, r.getLsbD j = x.getLsbD (min j (8 * k.toNat + 7))))

/-! Compare and bitwise (spec/41_alu_compare_bitwise.md). -/

/-- R150 to R155: the comparisons, unsigned and signed, push the Word 1 or 0. -/
def Obligations.ComparisonsPushTruth : Prop :=
  Alu2Rule .lt 0x10 (fun a b r => r = if a.toNat < b.toNat then 1 else 0) ∧
  Alu2Rule .gt 0x11 (fun a b r => r = if a.toNat > b.toNat then 1 else 0) ∧
  Alu2Rule .slt 0x12 (fun a b r => r = if a.toInt < b.toInt then 1 else 0) ∧
  Alu2Rule .sgt 0x13 (fun a b r => r = if a.toInt > b.toInt then 1 else 0) ∧
  Alu2Rule .eq 0x14 (fun a b r => r = if a = b then 1 else 0) ∧
  Alu1Rule .iszero 0x15 (fun a r => r = if a.toNat = 0 then 1 else 0)

/-- R156 to R159: AND, OR, XOR and NOT, bit by bit. -/
def Obligations.BitwiseBitByBit : Prop :=
  Alu2Rule .and 0x16 (fun a b r => ∀ j < 256, r.getLsbD j = (a.getLsbD j && b.getLsbD j)) ∧
  Alu2Rule .or 0x17 (fun a b r => ∀ j < 256, r.getLsbD j = (a.getLsbD j || b.getLsbD j)) ∧
  Alu2Rule .xor 0x18 (fun a b r => ∀ j < 256, r.getLsbD j = (a.getLsbD j ^^ b.getLsbD j)) ∧
  Alu1Rule .not 0x19 (fun a r => (∀ j < 256, r.getLsbD j = !a.getLsbD j) ∧ r.toNat = 2 ^ 256 - 1 - a.toNat)

/-- R160 to R163: BYTE indexes from the most significant byte; SHL, SHR and SAR take the shift on top, and a shift of 256 or
more gives 0, or all ones for SAR of a negative value; SAR rounds toward minus infinity. -/
def Obligations.ByteAndShifts : Prop :=
  Alu2Rule .byte 0x1A (fun i x r => (i.toNat < 32 → r.toNat = x.toNat / 256 ^ (31 - i.toNat) % 256) ∧
    (32 ≤ i.toNat → r = 0)) ∧
  Alu2Rule .shl 0x1B (fun sh v r => (sh.toNat < 256 → r.toNat = v.toNat * 2 ^ sh.toNat % 2 ^ 256) ∧
    (256 ≤ sh.toNat → r = 0)) ∧
  Alu2Rule .shr 0x1C (fun sh v r => (sh.toNat < 256 → r.toNat = v.toNat / 2 ^ sh.toNat) ∧ (256 ≤ sh.toNat → r = 0)) ∧
  Alu2Rule .sar 0x1D (fun sh v r => (sh.toNat < 256 → r.toInt = v.toInt / 2 ^ sh.toNat) ∧
    (256 ≤ sh.toNat → r.toInt = if v.toInt < 0 then -1 else 0))

/-! The stack (spec/42_stack.md). -/

/-- R181, R184: POP removes `S[0]` and discards it, or underflows on an empty stack and leaves it unchanged. -/
def Obligations.PopDiscardsTop : Prop :=
  encode .pop = [0x50] ∧
  (∀ (s : State) (a : Word) (rest : List Word), s.stack = a :: rest →
    exec .pop s = .next { s with stack := rest, pc := s.pc + 1 }) ∧
  (∀ s : State, s.stack = [] → exec .pop s = .next (raise .stackUnderflow s)) ∧
  OutOfGasFirst 0x50 .stackManip

/-- R185: PUSH0 pushes zero when PUSH0_MODE = PushZero, and overflows on a full stack; otherwise its byte is not in-block. -/
def Obligations.Push0PushesZero : Prop :=
  encode .push0 = [0x5F] ∧
  (∀ s : State, s.stack.length < 1024 → exec .push0 s = .next { s with stack := 0 :: s.stack, pc := s.pc + 1 }) ∧
  (∀ s : State, s.stack.length = 1024 → exec .push0 s = .next (raise .stackOverflow s)) ∧
  (∀ p : Params, classify p 0x5F = .inBlock .stackManip ↔ p.push0Mode = .pushZero) ∧
  (∀ s : State, s.params.push0Mode = .pushZero → s.status = .running → s.code[s.pc]? = some 0x5F →
    s.gas.toNat < s.params.gasCost.stackManip → step s = .next (raise .outOfGas { s with count := s.count + 1 }))

/-- R186: PUSH1 to PUSH32. The bound of the code is checked first, then the stack limit; else the immediate is pushed and the
program counter passes it. On a whole step, the Word pushed is the big-endian number of the n bytes after the opcode byte, and
a truncated PUSH with enough gas raises BytecodeBounds. -/
def Obligations.PushPushesImmediate : Prop :=
  (∀ (i : Instr) (n : Nat) (imm : Word), i.pushParts = some (n, imm) →
    (∀ s : State, s.pc + n < s.code.length → s.stack.length < 1024 →
      exec i s = .next { s with stack := imm :: s.stack, pc := s.pc + 1 + n }) ∧
    (∀ s : State, s.pc + n ≥ s.code.length → exec i s = .next (raise .bytecodeBounds s)) ∧
    (∀ s : State, s.pc + n < s.code.length → s.stack.length = 1024 → exec i s = .next (raise .stackOverflow s))) ∧
  (∀ (n : Nat) (s : State), 1 ≤ n → n ≤ 32 → s.status = .running →
    s.code[s.pc]? = some (BitVec.ofNat 8 (0x5F + n)) → s.params.gasCost.stackManip ≤ s.gas.toNat →
    (s.pc + n < s.code.length → s.stack.length < 1024 → ∃ (imm : Word) (t : State), step s = .next t ∧
      t.stack = imm :: s.stack ∧ t.pc = s.pc + 1 + n ∧
      imm.toNat = ∑ j ∈ Finset.range n, ((s.code.drop (s.pc + 1)).getD j 0).toNat * 256 ^ (n - 1 - j)) ∧
    (s.pc + n ≥ s.code.length → step s = .next (raise .bytecodeBounds { s with count := s.count + 1 }))) ∧
  (∀ n, 1 ≤ n → n ≤ 32 → OutOfGasFirst (BitVec.ofNat 8 (0x5F + n)) .stackManip)

/-- R187, R182: DUPn copies `S[n-1]` onto the top; the depth check comes before the overflow check, and a failure leaves the
stack unchanged. -/
def Obligations.DupCopiesNth : Prop :=
  ∀ (n : Nat) (i : Instr), (n, i) ∈ dups →
    encode i = [BitVec.ofNat 8 (0x80 + (n - 1))] ∧
    (∀ (s : State) (x : Word), s.stack[n - 1]? = some x → s.stack.length < 1024 →
      exec i s = .next { s with stack := x :: s.stack, pc := s.pc + 1 }) ∧
    (∀ s : State, s.stack.length < n → exec i s = .next (raise (depthKind s) s)) ∧
    (∀ s : State, s.stack.length = 1024 → exec i s = .next (raise .stackOverflow s)) ∧
    OutOfGasFirst (BitVec.ofNat 8 (0x80 + (n - 1))) .stackManip

/-- R188, R183: SWAPn exchanges `S[0]` and `S[n]` and nothing else, on a full stack too; on a stack of n entries or fewer it
raises the depth error and leaves the stack unchanged. -/
def Obligations.SwapExchangesNth : Prop :=
  ∀ (n : Nat) (i : Instr), (n, i) ∈ swaps →
    encode i = [BitVec.ofNat 8 (0x90 + (n - 1))] ∧
    (∀ (s : State) (x y : Word), s.stack[0]? = some x → s.stack[n]? = some y →
      ∃ st : List Word, exec i s = .next { s with stack := st, pc := s.pc + 1 } ∧ st.length = s.stack.length ∧
        st[0]? = some y ∧ st[n]? = some x ∧ ∀ j, j ≠ 0 → j ≠ n → st[j]? = s.stack[j]?) ∧
    (∀ s : State, s.stack.length ≤ n → exec i s = .next (raise (depthKind s) s)) ∧
    OutOfGasFirst (BitVec.ofNat 8 (0x90 + (n - 1))) .stackManip

/-- R189: any pushes that stay within 1024 entries, then as many pops, give the pushed values in last-in first-out order and
leave the stack as it was; a pop of an empty stack always fails, and so does the 1025th push. -/
def Obligations.StackIsLastInFirstOut : Prop :=
  (∀ (ws : List Word) (s : State) (k : List Word → State → State), s.stack.length + ws.length ≤ 1024 →
    (pushAll ws s fun t => popAll ws.length [] t k) = k ws.reverse s) ∧
  (∀ (s : State) (k : Word → State → State), s.stack = [] → popThen s k = raise .stackUnderflow s) ∧
  (∀ (s : State) (v : Word) (k : State → State), s.stack.length = 1024 → pushThen v s k = raise .stackOverflow s)

/-! Memory (spec/20_memory.md, spec/43_memory_ops.md). -/

/-- R63, R64, R65: MemExtend. An empty range changes and checks nothing; a range past MEM_LIMIT raises OutOfGas with memory
unchanged; any other grows memory, zero-filled, to the smallest multiple of 32 that covers it, and never shrinks it. Where
MEM_LIMIT is no multiple of 32, that this length may pass it is R63's pseudocode taken over R60 (log entry 30). -/
def Obligations.MemExtendGrowsZeroFilled : Prop :=
  ∀ (off n : Nat) (s : State) (k : State → State), s.mem.wf = true →
    (n = 0 → extendThen off n s k = k s) ∧
    (n > 0 → off + n > s.params.memLimit → extendThen off n s k = raise .outOfGas s) ∧
    (n > 0 → off + n ≤ s.params.memLimit → ∃ (m : Memory) (len : Nat),
      extendThen off n s k = k { s with mem := m } ∧ m.wf = true ∧ m.size = max s.mem.size len ∧
      len % 32 = 0 ∧ off + n ≤ len ∧ len < off + n + 32 ∧
      (∀ a, m.read a = s.mem.read a) ∧ (∀ a, s.mem.size ≤ a → m.read a = 0))

/-- R67: MemWrite extends and writes the bytes, and no other byte changes; MemRead of the same range then gives exactly the bytes
written; a range past the limit raises OutOfGas with memory unchanged. -/
def Obligations.MemWriteThenRead : Prop :=
  ∀ (off : Nat) (bytes : List Byte) (s : State), s.mem.wf = true → bytes ≠ [] →
    (off + bytes.length > s.params.memLimit → ∀ k : State → State, writeThen off bytes s k = raise .outOfGas s) ∧
    (off + bytes.length ≤ s.params.memLimit → ∀ k : List Byte → State → State, ∃ t : State,
      (writeThen off bytes s fun t => readThen off bytes.length t k) = k bytes t ∧
      t = { s with mem := t.mem } ∧ t.mem.wf = true ∧ t.mem.size = grownSize s.mem.size off bytes.length ∧
      (∀ a, (a < off ∨ off + bytes.length ≤ a) → t.mem.read a = s.mem.read a) ∧
      (∀ j < bytes.length, t.mem.read (off + j) = bytes.getD j 0))

/-- R200, R68: MLOAD pushes the 32 bytes at u(off), most significant first; a load grows memory and changes no byte of it; past
the limit it raises OutOfGas with off popped. -/
def Obligations.MloadReadsBigEndian : Prop :=
  encode .mload = [0x51] ∧
  (∀ (s : State) (off : Word) (rest : List Word), s.stack = off :: rest → s.stack.length ≤ 1024 →
    off.toNat + 32 ≤ s.params.memLimit → ∃ (r : Word) (m : Memory),
      exec .mload s = .next { s with stack := r :: rest, mem := m, pc := s.pc + 1 } ∧
      r.toNat = ∑ j ∈ Finset.range 32, (s.mem.read (off.toNat + j)).toNat * 256 ^ (31 - j) ∧
      m.size = grownSize s.mem.size off.toNat 32 ∧ ∀ a, m.read a = s.mem.read a) ∧
  (∀ (s : State) (off : Word) (rest : List Word), s.stack = off :: rest → off.toNat + 32 > s.params.memLimit →
    exec .mload s = .next (raise .outOfGas { s with stack := rest })) ∧
  (∀ s : State, s.stack = [] → exec .mload s = .next (raise .stackUnderflow s)) ∧
  OutOfGasFirst 0x51 .memory

/-- R201, R68: MSTORE writes the 32 bytes of v at u(off), byte 0 the most significant, and changes no byte outside them. -/
def Obligations.MstoreWritesBigEndian : Prop :=
  encode .mstore = [0x52] ∧
  (∀ (s : State) (off v : Word) (rest : List Word), s.stack = off :: v :: rest → s.mem.wf = true →
    off.toNat + 32 ≤ s.params.memLimit → ∃ m : Memory,
      exec .mstore s = .next { s with stack := rest, mem := m, pc := s.pc + 1 } ∧
      m.wf = true ∧ m.size = grownSize s.mem.size off.toNat 32 ∧
      (∀ j < 32, m.read (off.toNat + j) = v.extractLsb' (248 - 8 * j) 8) ∧
      (∀ a, (a < off.toNat ∨ off.toNat + 32 ≤ a) → m.read a = s.mem.read a)) ∧
  (∀ (s : State) (off v : Word) (rest : List Word), s.stack = off :: v :: rest →
    off.toNat + 32 > s.params.memLimit → exec .mstore s = .next (raise .outOfGas { s with stack := rest })) ∧
  (∀ s : State, s.stack.length < 2 → exec .mstore s = .next (raise .stackUnderflow { s with stack := [] })) ∧
  OutOfGasFirst 0x52 .memory

/-- R202: MSTORE8 writes the least significant byte of v at u(off) and changes no other byte; memory grows by whole quanta. -/
def Obligations.Mstore8WritesLowByte : Prop :=
  encode .mstore8 = [0x53] ∧
  (∀ (s : State) (off v : Word) (rest : List Word), s.stack = off :: v :: rest → s.mem.wf = true →
    off.toNat + 1 ≤ s.params.memLimit → ∃ m : Memory,
      exec .mstore8 s = .next { s with stack := rest, mem := m, pc := s.pc + 1 } ∧
      m.wf = true ∧ m.size = grownSize s.mem.size off.toNat 1 ∧
      (m.read off.toNat).toNat = v.toNat % 256 ∧ (∀ a, a ≠ off.toNat → m.read a = s.mem.read a)) ∧
  (∀ (s : State) (off v : Word) (rest : List Word), s.stack = off :: v :: rest →
    off.toNat + 1 > s.params.memLimit → exec .mstore8 s = .next (raise .outOfGas { s with stack := rest })) ∧
  (∀ s : State, s.stack.length < 2 → exec .mstore8 s = .next (raise .stackUnderflow { s with stack := [] })) ∧
  OutOfGasFirst 0x53 .memory

/-- R204, R79: MCOPY. After it, every byte of the destination range is what the source byte was before it, whether or not the
ranges overlap, and no other byte changes; one growth covers both ranges; a length of 0 changes and checks nothing. -/
def Obligations.McopyIsCopyThroughTemporary : Prop :=
  encode .mcopy = [0x5E] ∧
  (∀ (s : State) (dst src n : Word) (rest : List Word), s.stack = dst :: src :: n :: rest → s.mem.wf = true →
    Fits s (max dst.toNat src.toNat) n.toNat → ∃ m : Memory,
      exec .mcopy s = .next { s with stack := rest, mem := m, pc := s.pc + 1 } ∧
      m.wf = true ∧ m.size = grownSize s.mem.size (max dst.toNat src.toNat) n.toNat ∧
      (∀ j < n.toNat, m.read (dst.toNat + j) = s.mem.read (src.toNat + j)) ∧
      (∀ a, (a < dst.toNat ∨ dst.toNat + n.toNat ≤ a) → m.read a = s.mem.read a)) ∧
  (∀ (s : State) (dst src n : Word) (rest : List Word), s.stack = dst :: src :: n :: rest → n.toNat > 0 →
    max dst.toNat src.toNat + n.toNat > s.params.memLimit →
    exec .mcopy s = .next (raise .outOfGas { s with stack := rest })) ∧
  (∀ s : State, s.stack.length < 3 → exec .mcopy s = .next (raise .stackUnderflow { s with stack := [] })) ∧
  OutOfGasFirst 0x5E .memory

/-! Control (spec/44_control.md). -/

/-- R224: the model's check of a jump target is the rule's definition of a valid one, opcode positions included. -/
def Obligations.JumpTargetsAreValidTargets : Prop :=
  ∀ (s : State) (t : Nat), validJump s.params s.code t = true ↔ ValidTarget s t

/-- R225: STOP sets pc to L, clears returndata only if STOP_CLEARS_RETURNDATA, and changes nothing else. -/
def Obligations.StopEndsTheCode : Prop :=
  encode .stop = [0x00] ∧
  (∀ s : State, exec .stop s = .next { s with
    returndata := if s.params.stopClearsReturndata then [] else s.returndata
    pc := s.code.length }) ∧
  OutOfGasFirst 0x00 .controlFlow

/-- R226: JUMP goes to a valid target, or raises InvalidJumpDestination with the target popped and pc at the JUMP. -/
def Obligations.JumpGoesToValidTarget : Prop :=
  encode .jump = [0x56] ∧
  (∀ (s : State) (t : Word) (rest : List Word), s.stack = t :: rest → ValidTarget s t.toNat →
    exec .jump s = .next { s with stack := rest, pc := t.toNat }) ∧
  (∀ (s : State) (t : Word) (rest : List Word), s.stack = t :: rest → ¬ ValidTarget s t.toNat →
    exec .jump s = .next (raise .invalidJumpDestination { s with stack := rest })) ∧
  (∀ s : State, s.stack = [] → exec .jump s = .next (raise .stackUnderflow s)) ∧
  OutOfGasFirst 0x56 .controlFlow

/-- R227: JUMPI jumps for any non-zero condition and only then checks its target; a zero condition falls through. -/
def Obligations.JumpiChecksOnlyTakenTarget : Prop :=
  encode .jumpi = [0x57] ∧
  (∀ (s : State) (t c : Word) (rest : List Word), s.stack = t :: c :: rest →
    (c.toNat ≠ 0 → ValidTarget s t.toNat → exec .jumpi s = .next { s with stack := rest, pc := t.toNat }) ∧
    (c.toNat ≠ 0 → ¬ ValidTarget s t.toNat →
      exec .jumpi s = .next (raise .invalidJumpDestination { s with stack := rest })) ∧
    (c.toNat = 0 → exec .jumpi s = .next { s with stack := rest, pc := s.pc + 1 })) ∧
  (∀ s : State, s.stack.length < 2 → exec .jumpi s = .next (raise .stackUnderflow { s with stack := [] })) ∧
  OutOfGasFirst 0x57 .controlFlow

/-- R203, R228, R229, R230: MSIZE pushes the byte length of memory, always a multiple of 32, and grows nothing; JUMPDEST only
advances; PC pushes the offset of the PC opcode itself; GAS pushes the gas before its own debit, shown on a whole step. Those
that push overflow on a full stack. -/
def Obligations.MsizeJumpdestPcGas : Prop :=
  encode .msize = [0x59] ∧ encode .jumpdest = [0x5B] ∧ encode .pc = [0x58] ∧ encode .gas = [0x5A] ∧
  (∀ s : State, exec .jumpdest s = .next { s with pc := s.pc + 1 }) ∧
  (∀ s : State, s.stack.length < 1024 →
    exec .msize s = .next { s with stack := BitVec.ofNat 256 s.mem.size :: s.stack, pc := s.pc + 1 } ∧
    exec .pc s = .next { s with stack := BitVec.ofNat 256 s.pc :: s.stack, pc := s.pc + 1 } ∧
    exec .gas s = .next { s with stack := s.gas.setWidth 256 :: s.stack, pc := s.pc + 1 }) ∧
  (∀ s : State, s.mem.wf = true → (BitVec.ofNat 256 s.mem.size).toNat % 32 = 0) ∧
  (∀ s : State, s.stack.length = 1024 →
    exec .msize s = .next (raise .stackOverflow s) ∧ exec .pc s = .next (raise .stackOverflow s) ∧
    exec .gas s = .next (raise .stackOverflow s)) ∧
  (∀ s : State, s.status = .running → s.code[s.pc]? = some 0x5A → s.stack.length < 1024 →
    s.params.gasCost.controlFlow ≤ s.gas.toNat → ∃ t, step s = .next t ∧
      t.stack = s.gas.setWidth 256 :: s.stack ∧ t.pc = s.pc + 1 ∧
      t.gas.toNat = if s.params.gasDebit.controlFlow then s.gas.toNat - s.params.gasCost.controlFlow else s.gas.toNat) ∧
  OutOfGasFirst 0x59 .memory ∧ OutOfGasFirst 0x5B .controlFlow ∧ OutOfGasFirst 0x58 .controlFlow ∧
  OutOfGasFirst 0x5A .controlFlow

/-- R231: RETURN puts the memory range in returndata, growing memory when the size is not 0, and sets pc to L; a size of 0 gives
empty returndata whatever the offset. -/
def Obligations.ReturnCapturesMemory : Prop :=
  encode .ret = [0xF3] ∧
  (∀ (s : State) (off n : Word) (rest : List Word), s.stack = off :: n :: rest → Fits s off.toNat n.toNat →
    ∃ (m : Memory) (data : List Byte),
      exec .ret s = .next { s with stack := rest, mem := m, returndata := data, pc := s.code.length } ∧
      m.size = grownSize s.mem.size off.toNat n.toNat ∧ (∀ a, m.read a = s.mem.read a) ∧
      data.length = n.toNat ∧ ∀ j < n.toNat, data[j]? = some (s.mem.read (off.toNat + j))) ∧
  (∀ (s : State) (off n : Word) (rest : List Word), s.stack = off :: n :: rest → ¬ Fits s off.toNat n.toNat →
    exec .ret s = .next (raise .outOfGas { s with stack := rest })) ∧
  (∀ s : State, s.stack.length < 2 → exec .ret s = .next (raise .stackUnderflow { s with stack := [] })) ∧
  OutOfGasFirst 0xF3 .controlFlow

/-- R232: REVERT always ends in an error halt: RevertWithoutData for a size of 0, else RevertWithData of the range, which is
also written to returndata if REVERT_SETS_RETURNDATA; memory growth persists and pc stays. -/
def Obligations.RevertHaltsWithData : Prop :=
  encode .revert = [0xFD] ∧
  (∀ (s : State) (off n : Word) (rest : List Word), s.stack = off :: n :: rest → Fits s off.toNat n.toNat →
    ∃ (m : Memory) (data : List Byte),
      exec .revert s = .next (raise (if n.toNat = 0 then .revertWithoutData else .revertWithData data)
        { s with stack := rest, mem := m,
                 returndata := if s.params.revertSetsReturndata then data else s.returndata }) ∧
      m.size = grownSize s.mem.size off.toNat n.toNat ∧ (∀ a, m.read a = s.mem.read a) ∧
      data.length = n.toNat ∧ ∀ j < n.toNat, data[j]? = some (s.mem.read (off.toNat + j))) ∧
  (∀ (s : State) (off n : Word) (rest : List Word), s.stack = off :: n :: rest → ¬ Fits s off.toNat n.toNat →
    exec .revert s = .next (raise .outOfGas { s with stack := rest })) ∧
  (∀ s : State, s.stack.length < 2 → exec .revert s = .next (raise .stackUnderflow { s with stack := [] })) ∧
  OutOfGasFirst 0xFD .controlFlow

/-- R233: where pc stands after an in-block instruction on a running frame: past it when it completes, L for STOP and RETURN,
the target for a taken jump; and at its own offset when it raised an error. -/
def Obligations.DefaultAdvance : Prop :=
  ∀ (i : Instr) (s t : State), inBlockCategory i ≠ none → s.status = .running → exec i s = .next t →
    (t.status = .running →
      (i = .stop ∨ i = .ret → t.pc = s.code.length) ∧
      (i = .jump → ∃ w rest, s.stack = w :: rest ∧ t.pc = w.toNat) ∧
      (i = .jumpi → ∃ w c rest, s.stack = w :: c :: rest ∧ t.pc = if c.toNat = 0 then s.pc + 1 else w.toNat) ∧
      (i ≠ .stop → i ≠ .ret → i ≠ .jump → i ≠ .jumpi → t.pc = s.pc + (encode i).length)) ∧
    (t.status ≠ .running → t.pc = s.pc)

/-! In-block instructions as a whole. -/

/-- No in-block instruction writes the code, the environment fields, the calldata, the depth, the snapshots, the counters or
the parameters (spec/10_state.md R25, R29, R30, R37; spec/44_control.md R234), nor the model's draw counter; all but the
memory instructions, RETURN and REVERT leave the memory unchanged, and only STOP, RETURN and REVERT write returndata
(spec/10_state.md R31, spec/20_memory.md R60). -/
def Obligations.InBlockFrame : Prop :=
  ∀ (i : Instr) (s t : State), inBlockCategory i ≠ none → exec i s = .next t →
    t = { s with pc := t.pc, stack := t.stack, mem := t.mem, returndata := t.returndata, status := t.status,
                 report := t.report } ∧
    (i ∉ [Instr.mload, .mstore, .mstore8, .mcopy, .ret, .revert] → t.mem = s.mem) ∧
    (i ∉ [Instr.stop, .ret, .revert] → t.returndata = s.returndata)

/-- R271: a step that does not dispatch to an external unit raises only the kinds of codes 0 to 4 and 12 to 16. -/
def Obligations.InBlockErrorKinds : Prop :=
  ∀ (s t : State) (b : Byte) (e : ErrorKind), s.status = .running → s.code[s.pc]? = some b →
    (∀ cat, classify s.params b ≠ .ext cat) → step s = .next t → t.status = .halted (.error e) →
    e.code ∈ [0, 1, 2, 3, 4, 12, 13, 14, 15, 16]

/-! External opcodes and frames (spec/45_frames_external.md). -/

/-- R251: an external opcode that enters no frame always answers a next state that keeps the rules of R251, whatever its unit
does; so does an external byte outside the opcode table. -/
def Obligations.ExternalOpsKeepUnitRules : Prop :=
  (∀ (i : Instr) (b : Byte), (i, b) ∈ plainExternals → ∀ s : State, ∃ t, exec i s = .next t ∧
    KeepsUnitRules s t ∧ t.returndata = s.returndata ∧ t.draws = s.draws + 1) ∧
  (∀ (b : Byte) (s : State), KeepsUnitRules s (externalOp b s))

/-- R250: an external opcode is its unit's reply, applied through the block's primitives. A reply that pops k operands and pushes
results ends as it says: success one byte on, success at L, or an error that leaves what was popped popped. -/
def Obligations.ExternalReplyIsApplied : Prop :=
  (∀ (i : Instr) (b : Byte), (i, b) ∈ plainExternals → ∀ s : State,
    exec i s = .next (applyReply (Config.extReply b s) { s with draws := s.draws + 1 })) ∧
  (∀ (s : State) (k : Nat) (vs : List Word) (ending : ExtEnding), k ≤ s.stack.length →
    s.stack.length - k + vs.length ≤ 1024 →
    applyReply { actions := List.replicate k .pop ++ vs.map .push, ending := ending } s =
      match ending with
      | .advance => { s with stack := vs.reverse ++ s.stack.drop k, pc := s.pc + 1 }
      | .toEnd => { s with stack := vs.reverse ++ s.stack.drop k, pc := s.code.length }
      | .fail e => raise e { s with stack := vs.reverse ++ s.stack.drop k })

/-- R252: a call or create opcode always answers a next state: one that keeps the rules of R251 apart from the returndata, or
the entry into a frame, whose snapshot holds the caller's program counter and code, and a stack with room for the flag, since
operands were popped (R256; log entry 29). -/
def Obligations.CallOpsAnswer : Prop :=
  ∀ (i : Instr) (b : Byte), (i, b) ∈ calls ++ creates → ∀ s : State, s.status = .running → ∃ t, exec i s = .next t ∧
    (KeepsUnitRules s t ∨
      (∃ n : Snapshot, t.save = s.save ++ [n] ∧ n.pc = s.pc ∧ n.code = s.code ∧ n.caller = s.caller ∧
        n.address = s.address ∧ n.callvalue = s.callvalue ∧ n.calldata = s.calldata ∧ n.returndata = s.returndata ∧
        (s.mem.wf = true → n.mem.wf = true) ∧ (s.stack.length ≤ 1024 → n.stack.length < 1024) ∧
        t.depth = s.depth + 1 ∧ t.status = .running ∧ t.pc = 0 ∧ t.stack = [] ∧ t.mem = ⟨0, []⟩ ∧ t.returndata = [] ∧
        t.gas = s.gas ∧ t.count = s.count ∧ t.origin = s.origin ∧ t.params = s.params))

/-- R253: FRAME_ENTER (what the unit binds: log entry 9). A call or create opcode is its unit's reply, applied; a reply that
asks for a frame and gets as far as FRAME_ENTER, at a depth that is not exceeded, saves the nine fields (the operands popped,
the memory grown) and installs the environment, the fresh buffers, memory and stack, the new code and pc 0; gas, count and
origin stay. -/
def Obligations.CallEntersFrame : Prop :=
  (∀ (i : Instr) (b : Byte), (i, b) ∈ calls ++ creates → ∀ s : State,
    exec i s = .next (applyCall b (Config.callReply b s) { s with draws := s.draws + 1 })) ∧
  (∀ (i : Instr) (b : Byte) (s : State) (f : CallFrame) (c : List Byte),
    (i, b) ∈ calls ++ creates → ReachesFrame f s → f.code = some c →
    (∀ d, s.params.maxCallDepth = some d → s.depth < d) →
    applyCall b (.frame f) s = entered b f c s)

/-- R257: at an exceeded depth no snapshot is taken and nothing changes beyond the operands taken: under FailFlag a call
receives the flag 0 and goes on; under Abort the frame raises StackTooDeep. Two clauses are the model's choice: that a target
without code meets the limit too (log entry 10), and that CREATE and CREATE2 under FailFlag end as their unit says, one byte on
if in success (log entry 12). -/
def Obligations.DepthLimitRefusesFrame : Prop :=
  ∀ (i : Instr) (b : Byte) (s : State) (d : Nat) (f : CallFrame), ReachesFrame f s → s.stack.length ≤ 1024 →
    s.params.maxCallDepth = some d → d ≤ s.depth →
    (s.params.depthExceeded = .failFlag → (i, b) ∈ calls →
      applyCall b (.frame f) s =
        { operandsTaken f s with stack := 0 :: s.stack.drop (f.moreOperands + 1), pc := s.pc + 1 }) ∧
    (s.params.depthExceeded = .failFlag → (i, b) ∈ creates →
      applyCall b (.frame f) s =
        applyResume (Config.afterFrame b false (operandsTaken f s)) { operandsTaken f s with draws := s.draws + 1 } ∧
      ((applyCall b (.frame f) s).status = .running → (applyCall b (.frame f) s).pc = s.pc + 1)) ∧
    (s.params.depthExceeded = .abortStackTooDeep → (i, b) ∈ calls ++ creates →
      applyCall b (.frame f) s = raise .stackTooDeep (operandsTaken f s))

/-- R254: a call to a target without code runs no inner step and receives the flag NOCODE_OK; its returndata is empty and the
caller's stack and memory are otherwise as they were. CREATE and CREATE2 there end as their unit says, told NOCODE_OK, one
byte on if in success. That both
pass through FRAME_ENTER and FRAME_EXIT, and so empty the returndata, is the model's choice (log entries 10 and 11). -/
def Obligations.CodelessTargetNeverRuns : Prop :=
  ∀ (i : Instr) (b : Byte) (s : State) (f : CallFrame), s.status = .running → s.stack.length ≤ 1024 →
    ReachesFrame f s → f.code = none → (∀ d, s.params.maxCallDepth = some d → s.depth < d) →
    ((i, b) ∈ calls → applyCall b (.frame f) s =
      { operandsTaken f s with
        stack := (if s.params.nocodeOk then 1 else 0) :: s.stack.drop (f.moreOperands + 1)
        returndata := []
        pc := s.pc + 1 }) ∧
    ((i, b) ∈ creates → applyCall b (.frame f) s =
      applyResume (Config.afterFrame b s.params.nocodeOk (entered b f [] s))
        { operandsTaken f s with returndata := [], draws := s.draws + 1 } ∧
      ((applyCall b (.frame f) s).status = .running → (applyCall b (.frame f) s).pc = s.pc + 1))

/-- R255, R256: the step of a halted inner frame (the debit at this step: log entry 23). FRAME_EXIT restores the nine saved
fields but keeps the inner returndata, the depth goes down, the outer frame runs on with the flag pushed and pc past the call
opcode; gas (but for the call opcode's own debit), count, origin and report stay. The snapshot's stack has room for the flag in
every good state (State.Inv, which EveryStepKeepsInvariant keeps). -/
def Obligations.FrameExitResumesCaller : Prop :=
  ∀ (s : State) (h : Halt) (below : List Snapshot) (n : Snapshot) (i : Instr) (b : Byte) (cat : GasCategory),
    s.status = .halted h → s.depth ≠ 0 → s.save = below ++ [n] → n.code[n.pc]? = some b → (i, b) ∈ calls →
    s.params.extOpcodes.lookup b = some cat → n.stack.length < 1024 →
    step s = .next { s with
      caller := n.caller, callvalue := n.callvalue, address := n.address, calldata := n.calldata, mem := n.mem
      stack := (if h = .success then 1 else 0) :: n.stack
      pc := n.pc + 1
      code := n.code
      depth := s.depth - 1
      save := below
      status := .running
      gas := gasAfter s cat }

/-- After CREATE's or CREATE2's frame the fields are restored in the same way, and what the opcode then does is a draw made on the
halted inner state (R255, R256; log entry 11). If that succeeds, the program counter is one past the restored one, and the
opcode's own debit follows, once; if it fails there is none (R223; log entry 23). -/
def Obligations.CreateResumesWithDraw : Prop :=
  ∀ (s : State) (h : Halt) (below : List Snapshot) (n : Snapshot) (i : Instr) (b : Byte),
    s.status = .halted h → s.depth ≠ 0 → s.save = below ++ [n] → n.code[n.pc]? = some b → (i, b) ∈ creates →
    ∃ restored t u : State, restored = frameRestore n s ∧
      t = applyResume (Config.afterFrame b (decide (h = .success)) s) { restored with draws := s.draws + 1 } ∧
      step s = .next u ∧ u = { t with gas := u.gas } ∧ KeepsUnitRules restored t ∧
      (t.status = .running → t.pc = n.pc + 1) ∧
      (∀ cat, s.params.extOpcodes.lookup b = some cat →
        u.gas = if t.status = .running then gasAfter s cat else s.gas) ∧
      (s.params.extOpcodes.lookup b = none → u.gas = s.gas)

/-- A step leaves the snapshots of the frames below untouched: it may add one on top, or, returning to the caller, take the
newest off (spec/10_state.md R34; spec/20_memory.md R78). -/
def Obligations.StepKeepsLowerSnapshots : Prop :=
  ∀ s t : State, s.Inv → step s = .next t →
    (t.depth = s.depth ∧ t.save = s.save) ∨
    (t.depth = s.depth + 1 ∧ ∃ n, t.save = s.save ++ [n]) ∨
    (t.depth + 1 = s.depth ∧ t.save = s.save.dropLast ∧ s.status ≠ .running)

/-- R259: the frame isolation laws. From any good state at depth d > 0, whatever the inner frame and the frames it calls then do,
when the frame at depth d has halted, the step after returns to the caller with the stack it had at the snapshot and the flag
on top, its memory, environment and code as at the snapshot, the inner frame's returndata, and one snapshot per depth. -/
def Obligations.CallerIsolatedFromInnerRun : Prop :=
  ∀ (s u t : State) (below : List Snapshot) (n : Snapshot) (h : Halt) (i : Instr) (b : Byte),
    s.Inv → s.save = below ++ [n] → RunsAbove s.depth s u → u.depth = s.depth → u.status = .halted h →
    n.code[n.pc]? = some b → (i, b) ∈ calls → step u = .next t →
    t.stack = (if h = .success then 1 else 0) :: n.stack ∧ t.mem = n.mem ∧ t.pc = n.pc + 1 ∧ t.code = n.code ∧
    t.caller = n.caller ∧ t.callvalue = n.callvalue ∧ t.address = n.address ∧ t.calldata = n.calldata ∧
    t.returndata = u.returndata ∧ t.status = .running ∧ t.save = below ∧ t.save.length = t.depth ∧
    t.depth + 1 = s.depth

/-- R258, R35, R302: gas and count are one register each for all frames. A step never raises the gas, adds at most one to the
count, and never changes the origin or a parameter; entering or leaving a frame is no exception. -/
def Obligations.SharedCountersAndFixedParameters : Prop :=
  ∀ s t : State, step s = .next t →
    t.params = s.params ∧ t.origin = s.origin ∧ t.gas.toNat ≤ s.gas.toNat ∧
    (t.count = s.count ∨ (t.count = s.count + 1 ∧ s.status = .running)) ∧ s.draws ≤ t.draws

/-- Within a frame the code stays, and memory never shrinks and stays a multiple of 32 bytes long (spec/10_state.md R23, R25;
spec/20_memory.md R62). -/
def Obligations.FrameMemoryOnlyGrows : Prop :=
  ∀ s t : State, s.Inv → step s = .next t → t.depth = s.depth →
    t.code = s.code ∧ s.mem.size ≤ t.mem.size ∧ t.mem.size % 32 = 0

/-! Errors (spec/60_exceptions.md). -/

/-- R272, R273, R274: an error halt of a running frame is precise. The program counter is at the failing opcode, inside the code;
the opcode has been counted; no gas has been debited; and the report names pc, opcode byte, error and count. -/
def Obligations.ErrorHaltsArePrecise : Prop :=
  ∀ (s t : State) (e : ErrorKind), s.status = .running → step s = .next t → t.status = .halted (.error e) →
    ∃ b, s.code[s.pc]? = some b ∧ t.pc = s.pc ∧ t.code = s.code ∧ t.count = s.count + 1 ∧ t.gas = s.gas ∧
      t.depth = s.depth ∧ t.save = s.save ∧
      t.report = some { pc := s.pc, op := b, err := e, count := s.count + 1 }

/-! The machine as a whole. -/

/-- R300: the start state, for whatever the host supplies. -/
def Obligations.StartState : Prop :=
  ∀ h : HostStart, State.start h =
    { params := h.params, pc := 0, code := h.code, gas := h.gas, address := h.address, origin := h.origin,
      caller := h.caller, callvalue := h.callvalue, stack := [], mem := ⟨0, []⟩, calldata := h.calldata,
      returndata := [], depth := 0, count := 0, status := .running, report := none, save := [], draws := 0 }

/-- Every start state is good, the reset state among them. -/
def Obligations.StartIsGood : Prop :=
  (∀ h : HostStart, (State.start h).Inv) ∧ State.reset.Inv

/-- Every step keeps the machine's invariant: the stack limit, the canonical memory with a length that is a multiple of 32, a
program counter that never exceeds L, one good snapshot per call depth, each with room for the flag (spec/45_frames_external.md
R256), and a report that matches an error halt (spec/10_state.md R22, R23, R24, R33, R34). -/
def Obligations.EveryStepKeepsInvariant : Prop :=
  ∀ s t : State, s.Inv → step s = .next t → t.Inv

/-- From a good state a step answers a next state unless the run has ended, and is never refused. A halted frame at depth 0 has
ended the run and takes no further step (R272, spec/70_reset_and_hazards.md R303); that the model says so by the fault runEnded
is its own choice (log entry 13). -/
def Obligations.OnlyEndedRunsStop : Prop :=
  (∀ s : State, s.Ended → step s = .fault .runEnded) ∧
  (∀ s : State, s.Inv → ¬ s.Ended → ∃ t, step s = .next t)

/-- R42: the debug view shows the stack top to bottom and the memory in 32-byte chunks that together are exactly the memory. -/
def Obligations.DebugViewShowsMemory : Prop :=
  ∀ s : State, s.mem.wf = true →
    (debugView s).stack = s.stack ∧ (∀ c ∈ (debugView s).memory, c.length = 32) ∧
    (debugView s).memory.flatten.length = s.mem.size ∧
    ∀ a < s.mem.size, (debugView s).memory.flatten[a]? = some (s.mem.read a)
end

