-- ==== Sys2Proof/Laws/Bits.lean ====
section
/-! SUPPORT. The byte-order helpers: numbers to bytes and back (spec/20_memory.md R68, spec/30_encoding.md R92). -/

namespace Sys2Proof.Machine

@[simp] theorem natToBytes_length (n v : Nat) : (natToBytes n v).length = n := by
  induction n generalizing v with
  | zero => rfl
  | succ n ih => simp [natToBytes, ih]

@[simp] theorem wordToBytes_length (v : Word) : (wordToBytes v).length = 32 := natToBytes_length 32 _

@[simp] theorem bytesToNat_nil : bytesToNat [] = 0 := rfl

/-- The last byte is the least significant. -/
theorem bytesToNat_append_singleton (bs : List Byte) (b : Byte) :
    bytesToNat (bs ++ [b]) = bytesToNat bs * 256 + b.toNat := by
  simp [bytesToNat]

/-- The first byte is the most significant. -/
theorem bytesToNat_cons (b : Byte) (bs : List Byte) :
    bytesToNat (b :: bs) = b.toNat * 256 ^ bs.length + bytesToNat bs := by
  induction bs using List.reverseRecOn with
  | nil => simp [bytesToNat]
  | append_singleton bs c ih =>
    rw [← List.cons_append, bytesToNat_append_singleton, ih, bytesToNat_append_singleton]
    simp [pow_succ]
    ring

theorem bytesToNat_lt (bs : List Byte) : bytesToNat bs < 256 ^ bs.length := by
  induction bs using List.reverseRecOn with
  | nil => simp
  | append_singleton bs c ih =>
    rw [bytesToNat_append_singleton]
    have hc : c.toNat < 256 := c.isLt
    simp only [List.length_append, List.length_singleton, pow_succ]
    omega

/-- The n low bytes of v hold v modulo 256^n. -/
theorem bytesToNat_natToBytes (n v : Nat) : bytesToNat (natToBytes n v) = v % 256 ^ n := by
  induction n generalizing v with
  | zero => simp [natToBytes, Nat.mod_one]
  | succ n ih =>
    have h : v % (256 * 256 ^ n) = v % 256 + 256 * (v / 256 % 256 ^ n) := Nat.mod_mul
    have h8 : (BitVec.ofNat 8 v).toNat = v % 256 := by simp
    rw [natToBytes, bytesToNat_append_singleton, ih, h8, Nat.pow_succ, Nat.mul_comm (256 ^ n) 256, h]
    omega

/-- A byte sequence is the bytes of the number it holds. -/
theorem natToBytes_bytesToNat (bs : List Byte) : natToBytes bs.length (bytesToNat bs) = bs := by
  induction bs using List.reverseRecOn with
  | nil => rfl
  | append_singleton bs c ih =>
    have hc : c.toNat < 256 := c.isLt
    rw [bytesToNat_append_singleton, List.length_append, List.length_singleton, natToBytes,
      show (bytesToNat bs * 256 + c.toNat) / 256 = bytesToNat bs by omega, ih]
    congr 2
    apply BitVec.eq_of_toNat_eq
    rw [BitVec.toNat_ofNat]
    omega

theorem wordOfBytes_toNat (bs : List Byte) (h : bs.length ≤ 32) : (wordOfBytes bs).toNat = bytesToNat bs := by
  have h1 := bytesToNat_lt bs
  have h2 : 256 ^ bs.length ≤ 256 ^ 32 := Nat.pow_le_pow_right (by decide) h
  rw [wordOfBytes, wordOfNat, BitVec.toNat_ofNat]
  exact Nat.mod_eq_of_lt (lt_of_lt_of_le h1 (le_trans h2 (by decide)))

/-- A Word read back from its 32 bytes. -/
@[simp] theorem wordOfBytes_wordToBytes (v : Word) : wordOfBytes (wordToBytes v) = v := by
  apply BitVec.eq_of_toNat_eq
  rw [wordOfBytes_toNat _ (by simp), wordToBytes, bytesToNat_natToBytes]
  exact Nat.mod_eq_of_lt (lt_of_lt_of_le v.isLt (by decide))

/-- Byte i of the n low bytes of v, counted from the most significant. -/
theorem natToBytes_getElem (n v i : Nat) (h : i < (natToBytes n v).length) :
    (natToBytes n v)[i] = BitVec.ofNat 8 (v / 256 ^ (n - 1 - i)) := by
  induction n generalizing v with
  | zero => simp [natToBytes] at h
  | succ n ih =>
    simp only [natToBytes_length] at h
    simp only [natToBytes]
    rcases Nat.lt_succ_iff_lt_or_eq.mp h with hi | rfl
    · rw [List.getElem_append_left (by simpa using hi), ih]
      rw [Nat.div_div_eq_div_mul, show n + 1 - 1 - i = (n - 1 - i) + 1 by omega, pow_succ, Nat.mul_comm 256]
    · rw [List.getElem_append_right (by simp)]
      simp

/-- Byte i of a Word, byte 0 the most significant: bits `255 - 8i` to `248 - 8i` (spec/00_scope.md R8). -/
theorem wordToBytes_getElem (v : Word) (i : Nat) (h : i < 32) :
    (wordToBytes v)[i]'(by simpa using h) = v.extractLsb' (248 - 8 * i) 8 := by
  rw [show (wordToBytes v)[i]'(by simpa using h) = _ from natToBytes_getElem 32 v.toNat i (by simpa using h)]
  apply BitVec.eq_of_toNat_eq
  rw [BitVec.toNat_ofNat, BitVec.extractLsb'_toNat, Nat.shiftRight_eq_div_pow]
  rw [show (256 : Nat) ^ (32 - 1 - i) = 2 ^ (248 - 8 * i) by
    rw [show (256 : Nat) = 2 ^ 8 by decide, ← pow_mul]; congr 1; omega]

end Sys2Proof.Machine
end

