-- ==== Sys2Proof/Laws/Memory.lean ====
section
/-! SUPPORT. Data memory: every operation keeps the canonical form, a write is read back and leaves every other byte alone,
and two canonical memories that read alike are equal (spec/20_memory.md R62 to R67). -/

namespace Sys2Proof.Machine

/-! The cell list. -/

/-- A canonical cell list, one cell unfolded. -/
theorem cellsWf_cons (lo hi a : Nat) (b : Byte) (cs : List Host.Cell) :
    cellsWf lo hi ((a, b) :: cs) = true ↔ lo ≤ a ∧ a < hi ∧ b ≠ 0 ∧ cellsWf (a + 1) hi cs = true := by
  simp [cellsWf, and_assoc]

theorem cellsWf_mono {lo lo' hi hi' : Nat} {cs : List Host.Cell} (h : cellsWf lo hi cs = true) (hl : lo' ≤ lo)
    (hh : hi ≤ hi') : cellsWf lo' hi' cs = true := by
  induction cs generalizing lo lo' with
  | nil => rfl
  | cons c cs ih =>
    obtain ⟨a, b⟩ := c
    rw [cellsWf_cons] at h ⊢
    exact ⟨by omega, by omega, h.2.2.1, ih h.2.2.2 le_rfl⟩

theorem lookup_of_lt {lo hi x : Nat} {cs : List Host.Cell} (h : cellsWf lo hi cs = true) (hx : x < lo) :
    cs.lookup x = none := by
  induction cs generalizing lo with
  | nil => rfl
  | cons c cs ih =>
    obtain ⟨a, b⟩ := c
    rw [cellsWf_cons] at h
    rw [List.lookup_cons, show (x == a) = false by simp; omega]
    exact ih h.2.2.2 (by omega)

theorem lookup_of_ge {lo hi x : Nat} {cs : List Host.Cell} (h : cellsWf lo hi cs = true) (hx : hi ≤ x) :
    cs.lookup x = none := by
  induction cs generalizing lo with
  | nil => rfl
  | cons c cs ih =>
    obtain ⟨a, b⟩ := c
    rw [cellsWf_cons] at h
    rw [List.lookup_cons, show (x == a) = false by simp; omega]
    exact ih h.2.2.2

theorem lookup_cell (x a : Nat) (b : Byte) (cs : List Host.Cell) :
    List.lookup x ((a, b) :: cs) = if x = a then some b else cs.lookup x := by
  rw [List.lookup_cons]
  by_cases h : x = a
  · rw [if_pos h, show (x == a) = true by simpa using h]
  · rw [if_neg h, show (x == a) = false by simpa using h]

theorem putCell_wf {lo hi a : Nat} {cs : List Host.Cell} (b : Byte) (h : cellsWf lo hi cs = true) (hlo : lo ≤ a)
    (hhi : a < hi) : cellsWf lo hi (putCell cs a b) = true := by
  induction cs generalizing lo with
  | nil =>
    rw [putCell]
    split_ifs with hb
    · rfl
    · rw [cellsWf_cons]; exact ⟨hlo, hhi, hb, rfl⟩
  | cons c cs ih =>
    obtain ⟨x, v⟩ := c
    have h' := h
    rw [cellsWf_cons] at h
    rw [putCell]
    split_ifs with h1 h2 h3 h4
    · exact h'
    · rw [cellsWf_cons, cellsWf_cons]; exact ⟨hlo, hhi, h2, by omega, h.2.1, h.2.2⟩
    · exact cellsWf_mono h.2.2.2 (by omega) le_rfl
    · subst h3; rw [cellsWf_cons]; exact ⟨hlo, hhi, h4, h.2.2.2⟩
    · rw [cellsWf_cons]; exact ⟨h.1, h.2.1, h.2.2.1, ih h.2.2.2 (by omega)⟩

theorem lookup_putCell {lo hi : Nat} {cs : List Host.Cell} (h : cellsWf lo hi cs = true) (a x : Nat) (b : Byte) :
    ((putCell cs a b).lookup x).getD 0 = if x = a then b else (cs.lookup x).getD 0 := by
  induction cs generalizing lo with
  | nil =>
    rw [putCell]
    split_ifs with hb hx hx
    · rw [hb]; rfl
    · rfl
    · rw [lookup_cell, if_pos hx]; rfl
    · rw [lookup_cell, if_neg hx]
  | cons c cs ih =>
    obtain ⟨y, v⟩ := c
    rw [cellsWf_cons] at h
    have hbelow : ∀ z, z ≤ y → cs.lookup z = none := fun z hz => lookup_of_lt h.2.2.2 (by omega)
    have hnone : (none : Option Byte).getD 0 = 0 := rfl
    have hsome : ∀ w : Byte, (some w).getD 0 = w := fun _ => rfl
    rw [putCell]
    by_cases h1 : a < y
    · rw [if_pos h1]
      by_cases hx : x = a
      · rw [if_pos hx]
        by_cases hb : b = 0
        · rw [if_pos hb, lookup_cell, if_neg (by omega), hbelow x (by omega), hb, hnone]
        · rw [if_neg hb, lookup_cell, if_pos hx, hsome]
      · rw [if_neg hx]
        by_cases hb : b = 0
        · rw [if_pos hb]
        · rw [if_neg hb, lookup_cell, if_neg hx]
    · rw [if_neg h1]
      by_cases h2 : a = y
      · rw [if_pos h2]
        by_cases hx : x = a
        · rw [if_pos hx]
          by_cases hb : b = 0
          · rw [if_pos hb, hbelow x (by omega), hb, hnone]
          · rw [if_neg hb, lookup_cell, if_pos hx, hsome]
        · rw [if_neg hx, lookup_cell, if_neg (show ¬ x = y by omega)]
          by_cases hb : b = 0
          · rw [if_pos hb]
          · rw [if_neg hb, lookup_cell, if_neg hx]
      · rw [if_neg h2, lookup_cell, lookup_cell]
        by_cases hxy : x = y
        · rw [if_pos hxy, if_neg (show ¬ x = a by omega), if_pos hxy]
        · rw [if_neg hxy, if_neg hxy, ih h.2.2.2]

/-! Memory. -/

theorem Memory.wf_iff (m : Memory) : m.wf = true ↔ cellsWf 0 m.size m.cells = true ∧ m.size % 32 = 0 := by
  simp [Memory.wf]

@[simp] theorem Memory.empty_wf : Memory.empty.wf = true := rfl
@[simp] theorem Memory.empty_size : Memory.empty.size = 0 := rfl
@[simp] theorem Memory.empty_read (a : Nat) : Memory.empty.read a = 0 := rfl

@[simp] theorem Memory.write_size (m : Memory) (a : Nat) (b : Byte) : (m.write a b).size = m.size := rfl

@[simp] theorem Memory.writeBytes_size (m : Memory) (off : Nat) (bs : List Byte) : (m.writeBytes off bs).size = m.size := by
  induction bs generalizing m off with
  | nil => rfl
  | cons b bs ih => simp [Memory.writeBytes, ih]

@[simp] theorem Memory.grow_size (m : Memory) (len : Nat) : (m.grow len).size = max m.size len := rfl

/-- Growth is zero-filled: no byte changes (R63). -/
@[simp] theorem Memory.grow_read (m : Memory) (len a : Nat) : (m.grow len).read a = m.read a := rfl

/-- A byte past the length reads 0 (R66). -/
theorem Memory.read_of_ge {m : Memory} (h : m.wf = true) {a : Nat} (ha : m.size ≤ a) : m.read a = 0 := by
  simp [Memory.read, lookup_of_ge ((Memory.wf_iff m).mp h).1 ha]

theorem roundUp32_mod (n : Nat) : roundUp32 n % 32 = 0 := by simp [roundUp32]
theorem le_roundUp32 (n : Nat) : n ≤ roundUp32 n := by unfold roundUp32; omega
theorem roundUp32_lt (n : Nat) : roundUp32 n < n + 32 := by unfold roundUp32; omega

/-- Growth to a multiple of 32 keeps the canonical form. -/
theorem Memory.grow_wf {m : Memory} (h : m.wf = true) {len : Nat} (hl : len % 32 = 0) : (m.grow len).wf = true := by
  rw [Memory.wf_iff] at h ⊢
  refine ⟨cellsWf_mono h.1 le_rfl (le_max_left _ _), ?_⟩
  rw [Memory.grow_size]
  rcases max_choice m.size len with e | e <;> rw [e]
  · exact h.2
  · exact hl

/-- Writing a byte below the length keeps the canonical form. -/
theorem Memory.write_wf {m : Memory} (h : m.wf = true) {a : Nat} (b : Byte) (ha : a < m.size) :
    (m.write a b).wf = true := by
  rw [Memory.wf_iff] at h ⊢
  exact ⟨putCell_wf b h.1 (Nat.zero_le a) ha, h.2⟩

/-- Writing bytes below the length keeps the canonical form. -/
theorem Memory.writeBytes_wf {m : Memory} (h : m.wf = true) {off : Nat} (bs : List Byte) (hb : off + bs.length ≤ m.size) :
    (m.writeBytes off bs).wf = true := by
  induction bs generalizing m off with
  | nil => exact h
  | cons b bs ih =>
    simp only [List.length_cons] at hb
    exact ih (Memory.write_wf h b (by omega)) (by rw [Memory.write_size]; omega)

/-- A written byte is read back; every other byte is unchanged (R67). -/
theorem Memory.read_write {m : Memory} (h : m.wf = true) (a x : Nat) (b : Byte) :
    (m.write a b).read x = if x = a then b else m.read x :=
  lookup_putCell ((Memory.wf_iff m).mp h).1 a x b

/-- Written bytes are read back in place; every other byte is unchanged (R67). -/
theorem Memory.read_writeBytes {m : Memory} (h : m.wf = true) {off : Nat} (bs : List Byte)
    (hb : off + bs.length ≤ m.size) (x : Nat) :
    (m.writeBytes off bs).read x = if off ≤ x ∧ x < off + bs.length then bs.getD (x - off) 0 else m.read x := by
  induction bs generalizing m off with
  | nil => rw [Memory.writeBytes, if_neg (by simp only [List.length_nil]; omega)]
  | cons b bs ih =>
    simp only [List.length_cons] at hb
    rw [Memory.writeBytes, ih (Memory.write_wf h b (by omega)) (by rw [Memory.write_size]; omega),
      Memory.read_write h]
    simp only [List.length_cons]
    rcases Nat.lt_trichotomy x off with hx | rfl | hx
    · rw [if_neg (by omega), if_neg (by omega), if_neg (by omega)]
    · rw [if_neg (by omega), if_pos rfl, if_pos (by omega)]; simp
    · rw [if_neg (show x ≠ off by omega)]
      by_cases hx2 : x < off + 1 + bs.length
      · rw [if_pos (by omega), if_pos (by omega), show x - off = (x - (off + 1)) + 1 by omega]; rfl
      · rw [if_neg (by omega), if_neg (by omega)]

@[simp] theorem Memory.readBytes_length (m : Memory) (off n : Nat) : (m.readBytes off n).length = n := by
  simp [Memory.readBytes]

theorem Memory.readBytes_getElem (m : Memory) (off n i : Nat) (h : i < (m.readBytes off n).length) :
    (m.readBytes off n)[i] = m.read (off + i) := by
  simp [Memory.readBytes]

/-- What was written is what is read (R67). -/
theorem Memory.readBytes_writeBytes {m : Memory} (h : m.wf = true) {off : Nat} (bs : List Byte)
    (hb : off + bs.length ≤ m.size) : (m.writeBytes off bs).readBytes off bs.length = bs := by
  apply List.ext_getElem (by simp)
  intro i h1 h2
  rw [Memory.readBytes_getElem, Memory.read_writeBytes h bs hb, if_pos ⟨by omega, by omega⟩]
  rw [Nat.add_sub_cancel_left, List.getD_eq_getElem _ _ h2]

/-- Canonical cell lists that read alike are equal. -/
theorem cells_ext {lo hi : Nat} {cs ds : List Host.Cell} (hc : cellsWf lo hi cs = true) (hd : cellsWf lo hi ds = true)
    (h : ∀ x, (cs.lookup x).getD 0 = (ds.lookup x).getD 0) : cs = ds := by
  induction cs generalizing lo ds with
  | nil =>
    cases ds with
    | nil => rfl
    | cons d ds =>
      obtain ⟨a, b⟩ := d
      rw [cellsWf_cons] at hd
      have := h a
      rw [lookup_cell, if_pos rfl] at this
      exact absurd this.symm hd.2.2.1
  | cons c cs ih =>
    obtain ⟨a, b⟩ := c
    have hc' := hc
    rw [cellsWf_cons] at hc
    cases ds with
    | nil =>
      have := h a
      rw [lookup_cell, if_pos rfl] at this
      exact absurd this hc.2.2.1
    | cons d ds =>
      obtain ⟨a', b'⟩ := d
      have hd' := hd
      rw [cellsWf_cons] at hd
      have haa : a = a' := by
        rcases Nat.lt_trichotomy a a' with hlt | he | hgt
        · exfalso
          have h1 := h a
          rw [lookup_cell, lookup_cell, if_pos rfl, if_neg (by omega), lookup_of_lt hd.2.2.2 (by omega)] at h1
          exact hc.2.2.1 h1
        · exact he
        · exfalso
          have h1 := h a'
          rw [lookup_cell, lookup_cell, if_neg (by omega), if_pos rfl, lookup_of_lt hc.2.2.2 (by omega)] at h1
          exact hd.2.2.1 h1.symm
      subst haa
      have hbb : b = b' := by
        have h1 := h a
        rwa [lookup_cell, lookup_cell, if_pos rfl, if_pos rfl] at h1
      subst hbb
      have : cs = ds := by
        apply ih hc.2.2.2 hd.2.2.2
        intro x
        by_cases hx : x = a
        · subst hx; rw [lookup_of_lt hc.2.2.2 (by omega), lookup_of_lt hd.2.2.2 (by omega)]
        · have h1 := h x
          rwa [lookup_cell, lookup_cell, if_neg hx, if_neg hx] at h1
      rw [this]

/-- Canonical memories of one length that read alike are equal, so equal memories are equal data. -/
theorem Memory.eq_of_read {m m' : Memory} (h : m.wf = true) (h' : m'.wf = true) (hs : m.size = m'.size)
    (hr : ∀ a, m.read a = m'.read a) : m = m' := by
  have hc := ((Memory.wf_iff m).mp h).1
  have hd := ((Memory.wf_iff m').mp h').1
  have : m.cells = m'.cells := cells_ext hc (hs ▸ hd) hr
  cases m; cases m'; simp_all

end Sys2Proof.Machine
end

