-- ==== Sys2Proof/Laws/State.lean ====
section
/-! SUPPORT. What every named update of the state does to every field, one lemma each, so that no later proof unfolds a record
update. -/

namespace Sys2Proof.Machine

/-! State.setPc -/

@[simp] theorem State.setPc_params (s : State) (x : Nat) : (s.setPc x).params = s.params := rfl
@[simp] theorem State.setPc_pc (s : State) (x : Nat) : (s.setPc x).pc = x := rfl
@[simp] theorem State.setPc_code (s : State) (x : Nat) : (s.setPc x).code = s.code := rfl
@[simp] theorem State.setPc_gas (s : State) (x : Nat) : (s.setPc x).gas = s.gas := rfl
@[simp] theorem State.setPc_address (s : State) (x : Nat) : (s.setPc x).address = s.address := rfl
@[simp] theorem State.setPc_origin (s : State) (x : Nat) : (s.setPc x).origin = s.origin := rfl
@[simp] theorem State.setPc_caller (s : State) (x : Nat) : (s.setPc x).caller = s.caller := rfl
@[simp] theorem State.setPc_callvalue (s : State) (x : Nat) : (s.setPc x).callvalue = s.callvalue := rfl
@[simp] theorem State.setPc_stack (s : State) (x : Nat) : (s.setPc x).stack = s.stack := rfl
@[simp] theorem State.setPc_mem (s : State) (x : Nat) : (s.setPc x).mem = s.mem := rfl
@[simp] theorem State.setPc_calldata (s : State) (x : Nat) : (s.setPc x).calldata = s.calldata := rfl
@[simp] theorem State.setPc_returndata (s : State) (x : Nat) : (s.setPc x).returndata = s.returndata := rfl
@[simp] theorem State.setPc_depth (s : State) (x : Nat) : (s.setPc x).depth = s.depth := rfl
@[simp] theorem State.setPc_count (s : State) (x : Nat) : (s.setPc x).count = s.count := rfl
@[simp] theorem State.setPc_status (s : State) (x : Nat) : (s.setPc x).status = s.status := rfl
@[simp] theorem State.setPc_report (s : State) (x : Nat) : (s.setPc x).report = s.report := rfl
@[simp] theorem State.setPc_save (s : State) (x : Nat) : (s.setPc x).save = s.save := rfl
@[simp] theorem State.setPc_draws (s : State) (x : Nat) : (s.setPc x).draws = s.draws := rfl

/-! State.setStack -/

@[simp] theorem State.setStack_params (s : State) (x : List Word) : (s.setStack x).params = s.params := rfl
@[simp] theorem State.setStack_pc (s : State) (x : List Word) : (s.setStack x).pc = s.pc := rfl
@[simp] theorem State.setStack_code (s : State) (x : List Word) : (s.setStack x).code = s.code := rfl
@[simp] theorem State.setStack_gas (s : State) (x : List Word) : (s.setStack x).gas = s.gas := rfl
@[simp] theorem State.setStack_address (s : State) (x : List Word) : (s.setStack x).address = s.address := rfl
@[simp] theorem State.setStack_origin (s : State) (x : List Word) : (s.setStack x).origin = s.origin := rfl
@[simp] theorem State.setStack_caller (s : State) (x : List Word) : (s.setStack x).caller = s.caller := rfl
@[simp] theorem State.setStack_callvalue (s : State) (x : List Word) : (s.setStack x).callvalue = s.callvalue := rfl
@[simp] theorem State.setStack_stack (s : State) (x : List Word) : (s.setStack x).stack = x := rfl
@[simp] theorem State.setStack_mem (s : State) (x : List Word) : (s.setStack x).mem = s.mem := rfl
@[simp] theorem State.setStack_calldata (s : State) (x : List Word) : (s.setStack x).calldata = s.calldata := rfl
@[simp] theorem State.setStack_returndata (s : State) (x : List Word) : (s.setStack x).returndata = s.returndata := rfl
@[simp] theorem State.setStack_depth (s : State) (x : List Word) : (s.setStack x).depth = s.depth := rfl
@[simp] theorem State.setStack_count (s : State) (x : List Word) : (s.setStack x).count = s.count := rfl
@[simp] theorem State.setStack_status (s : State) (x : List Word) : (s.setStack x).status = s.status := rfl
@[simp] theorem State.setStack_report (s : State) (x : List Word) : (s.setStack x).report = s.report := rfl
@[simp] theorem State.setStack_save (s : State) (x : List Word) : (s.setStack x).save = s.save := rfl
@[simp] theorem State.setStack_draws (s : State) (x : List Word) : (s.setStack x).draws = s.draws := rfl

/-! State.setMem -/

@[simp] theorem State.setMem_params (s : State) (x : Memory) : (s.setMem x).params = s.params := rfl
@[simp] theorem State.setMem_pc (s : State) (x : Memory) : (s.setMem x).pc = s.pc := rfl
@[simp] theorem State.setMem_code (s : State) (x : Memory) : (s.setMem x).code = s.code := rfl
@[simp] theorem State.setMem_gas (s : State) (x : Memory) : (s.setMem x).gas = s.gas := rfl
@[simp] theorem State.setMem_address (s : State) (x : Memory) : (s.setMem x).address = s.address := rfl
@[simp] theorem State.setMem_origin (s : State) (x : Memory) : (s.setMem x).origin = s.origin := rfl
@[simp] theorem State.setMem_caller (s : State) (x : Memory) : (s.setMem x).caller = s.caller := rfl
@[simp] theorem State.setMem_callvalue (s : State) (x : Memory) : (s.setMem x).callvalue = s.callvalue := rfl
@[simp] theorem State.setMem_stack (s : State) (x : Memory) : (s.setMem x).stack = s.stack := rfl
@[simp] theorem State.setMem_mem (s : State) (x : Memory) : (s.setMem x).mem = x := rfl
@[simp] theorem State.setMem_calldata (s : State) (x : Memory) : (s.setMem x).calldata = s.calldata := rfl
@[simp] theorem State.setMem_returndata (s : State) (x : Memory) : (s.setMem x).returndata = s.returndata := rfl
@[simp] theorem State.setMem_depth (s : State) (x : Memory) : (s.setMem x).depth = s.depth := rfl
@[simp] theorem State.setMem_count (s : State) (x : Memory) : (s.setMem x).count = s.count := rfl
@[simp] theorem State.setMem_status (s : State) (x : Memory) : (s.setMem x).status = s.status := rfl
@[simp] theorem State.setMem_report (s : State) (x : Memory) : (s.setMem x).report = s.report := rfl
@[simp] theorem State.setMem_save (s : State) (x : Memory) : (s.setMem x).save = s.save := rfl
@[simp] theorem State.setMem_draws (s : State) (x : Memory) : (s.setMem x).draws = s.draws := rfl

/-! State.setReturndata -/

@[simp] theorem State.setReturndata_params (s : State) (x : List Byte) : (s.setReturndata x).params = s.params := rfl
@[simp] theorem State.setReturndata_pc (s : State) (x : List Byte) : (s.setReturndata x).pc = s.pc := rfl
@[simp] theorem State.setReturndata_code (s : State) (x : List Byte) : (s.setReturndata x).code = s.code := rfl
@[simp] theorem State.setReturndata_gas (s : State) (x : List Byte) : (s.setReturndata x).gas = s.gas := rfl
@[simp] theorem State.setReturndata_address (s : State) (x : List Byte) : (s.setReturndata x).address = s.address := rfl
@[simp] theorem State.setReturndata_origin (s : State) (x : List Byte) : (s.setReturndata x).origin = s.origin := rfl
@[simp] theorem State.setReturndata_caller (s : State) (x : List Byte) : (s.setReturndata x).caller = s.caller := rfl
@[simp] theorem State.setReturndata_callvalue (s : State) (x : List Byte) : (s.setReturndata x).callvalue = s.callvalue := rfl
@[simp] theorem State.setReturndata_stack (s : State) (x : List Byte) : (s.setReturndata x).stack = s.stack := rfl
@[simp] theorem State.setReturndata_mem (s : State) (x : List Byte) : (s.setReturndata x).mem = s.mem := rfl
@[simp] theorem State.setReturndata_calldata (s : State) (x : List Byte) : (s.setReturndata x).calldata = s.calldata := rfl
@[simp] theorem State.setReturndata_returndata (s : State) (x : List Byte) : (s.setReturndata x).returndata = x := rfl
@[simp] theorem State.setReturndata_depth (s : State) (x : List Byte) : (s.setReturndata x).depth = s.depth := rfl
@[simp] theorem State.setReturndata_count (s : State) (x : List Byte) : (s.setReturndata x).count = s.count := rfl
@[simp] theorem State.setReturndata_status (s : State) (x : List Byte) : (s.setReturndata x).status = s.status := rfl
@[simp] theorem State.setReturndata_report (s : State) (x : List Byte) : (s.setReturndata x).report = s.report := rfl
@[simp] theorem State.setReturndata_save (s : State) (x : List Byte) : (s.setReturndata x).save = s.save := rfl
@[simp] theorem State.setReturndata_draws (s : State) (x : List Byte) : (s.setReturndata x).draws = s.draws := rfl

/-! State.setGas -/

@[simp] theorem State.setGas_params (s : State) (x : BitVec 64) : (s.setGas x).params = s.params := rfl
@[simp] theorem State.setGas_pc (s : State) (x : BitVec 64) : (s.setGas x).pc = s.pc := rfl
@[simp] theorem State.setGas_code (s : State) (x : BitVec 64) : (s.setGas x).code = s.code := rfl
@[simp] theorem State.setGas_gas (s : State) (x : BitVec 64) : (s.setGas x).gas = x := rfl
@[simp] theorem State.setGas_address (s : State) (x : BitVec 64) : (s.setGas x).address = s.address := rfl
@[simp] theorem State.setGas_origin (s : State) (x : BitVec 64) : (s.setGas x).origin = s.origin := rfl
@[simp] theorem State.setGas_caller (s : State) (x : BitVec 64) : (s.setGas x).caller = s.caller := rfl
@[simp] theorem State.setGas_callvalue (s : State) (x : BitVec 64) : (s.setGas x).callvalue = s.callvalue := rfl
@[simp] theorem State.setGas_stack (s : State) (x : BitVec 64) : (s.setGas x).stack = s.stack := rfl
@[simp] theorem State.setGas_mem (s : State) (x : BitVec 64) : (s.setGas x).mem = s.mem := rfl
@[simp] theorem State.setGas_calldata (s : State) (x : BitVec 64) : (s.setGas x).calldata = s.calldata := rfl
@[simp] theorem State.setGas_returndata (s : State) (x : BitVec 64) : (s.setGas x).returndata = s.returndata := rfl
@[simp] theorem State.setGas_depth (s : State) (x : BitVec 64) : (s.setGas x).depth = s.depth := rfl
@[simp] theorem State.setGas_count (s : State) (x : BitVec 64) : (s.setGas x).count = s.count := rfl
@[simp] theorem State.setGas_status (s : State) (x : BitVec 64) : (s.setGas x).status = s.status := rfl
@[simp] theorem State.setGas_report (s : State) (x : BitVec 64) : (s.setGas x).report = s.report := rfl
@[simp] theorem State.setGas_save (s : State) (x : BitVec 64) : (s.setGas x).save = s.save := rfl
@[simp] theorem State.setGas_draws (s : State) (x : BitVec 64) : (s.setGas x).draws = s.draws := rfl

/-! State.setStatus -/

@[simp] theorem State.setStatus_params (s : State) (x : Status) : (s.setStatus x).params = s.params := rfl
@[simp] theorem State.setStatus_pc (s : State) (x : Status) : (s.setStatus x).pc = s.pc := rfl
@[simp] theorem State.setStatus_code (s : State) (x : Status) : (s.setStatus x).code = s.code := rfl
@[simp] theorem State.setStatus_gas (s : State) (x : Status) : (s.setStatus x).gas = s.gas := rfl
@[simp] theorem State.setStatus_address (s : State) (x : Status) : (s.setStatus x).address = s.address := rfl
@[simp] theorem State.setStatus_origin (s : State) (x : Status) : (s.setStatus x).origin = s.origin := rfl
@[simp] theorem State.setStatus_caller (s : State) (x : Status) : (s.setStatus x).caller = s.caller := rfl
@[simp] theorem State.setStatus_callvalue (s : State) (x : Status) : (s.setStatus x).callvalue = s.callvalue := rfl
@[simp] theorem State.setStatus_stack (s : State) (x : Status) : (s.setStatus x).stack = s.stack := rfl
@[simp] theorem State.setStatus_mem (s : State) (x : Status) : (s.setStatus x).mem = s.mem := rfl
@[simp] theorem State.setStatus_calldata (s : State) (x : Status) : (s.setStatus x).calldata = s.calldata := rfl
@[simp] theorem State.setStatus_returndata (s : State) (x : Status) : (s.setStatus x).returndata = s.returndata := rfl
@[simp] theorem State.setStatus_depth (s : State) (x : Status) : (s.setStatus x).depth = s.depth := rfl
@[simp] theorem State.setStatus_count (s : State) (x : Status) : (s.setStatus x).count = s.count := rfl
@[simp] theorem State.setStatus_status (s : State) (x : Status) : (s.setStatus x).status = x := rfl
@[simp] theorem State.setStatus_report (s : State) (x : Status) : (s.setStatus x).report = s.report := rfl
@[simp] theorem State.setStatus_save (s : State) (x : Status) : (s.setStatus x).save = s.save := rfl
@[simp] theorem State.setStatus_draws (s : State) (x : Status) : (s.setStatus x).draws = s.draws := rfl

/-! State.counted -/

@[simp] theorem State.counted_params (s : State) : s.counted.params = s.params := rfl
@[simp] theorem State.counted_pc (s : State) : s.counted.pc = s.pc := rfl
@[simp] theorem State.counted_code (s : State) : s.counted.code = s.code := rfl
@[simp] theorem State.counted_gas (s : State) : s.counted.gas = s.gas := rfl
@[simp] theorem State.counted_address (s : State) : s.counted.address = s.address := rfl
@[simp] theorem State.counted_origin (s : State) : s.counted.origin = s.origin := rfl
@[simp] theorem State.counted_caller (s : State) : s.counted.caller = s.caller := rfl
@[simp] theorem State.counted_callvalue (s : State) : s.counted.callvalue = s.callvalue := rfl
@[simp] theorem State.counted_stack (s : State) : s.counted.stack = s.stack := rfl
@[simp] theorem State.counted_mem (s : State) : s.counted.mem = s.mem := rfl
@[simp] theorem State.counted_calldata (s : State) : s.counted.calldata = s.calldata := rfl
@[simp] theorem State.counted_returndata (s : State) : s.counted.returndata = s.returndata := rfl
@[simp] theorem State.counted_depth (s : State) : s.counted.depth = s.depth := rfl
@[simp] theorem State.counted_count (s : State) : s.counted.count = s.count + 1 := rfl
@[simp] theorem State.counted_status (s : State) : s.counted.status = s.status := rfl
@[simp] theorem State.counted_report (s : State) : s.counted.report = s.report := rfl
@[simp] theorem State.counted_save (s : State) : s.counted.save = s.save := rfl
@[simp] theorem State.counted_draws (s : State) : s.counted.draws = s.draws := rfl

/-! State.drawn -/

@[simp] theorem State.drawn_params (s : State) : s.drawn.params = s.params := rfl
@[simp] theorem State.drawn_pc (s : State) : s.drawn.pc = s.pc := rfl
@[simp] theorem State.drawn_code (s : State) : s.drawn.code = s.code := rfl
@[simp] theorem State.drawn_gas (s : State) : s.drawn.gas = s.gas := rfl
@[simp] theorem State.drawn_address (s : State) : s.drawn.address = s.address := rfl
@[simp] theorem State.drawn_origin (s : State) : s.drawn.origin = s.origin := rfl
@[simp] theorem State.drawn_caller (s : State) : s.drawn.caller = s.caller := rfl
@[simp] theorem State.drawn_callvalue (s : State) : s.drawn.callvalue = s.callvalue := rfl
@[simp] theorem State.drawn_stack (s : State) : s.drawn.stack = s.stack := rfl
@[simp] theorem State.drawn_mem (s : State) : s.drawn.mem = s.mem := rfl
@[simp] theorem State.drawn_calldata (s : State) : s.drawn.calldata = s.calldata := rfl
@[simp] theorem State.drawn_returndata (s : State) : s.drawn.returndata = s.returndata := rfl
@[simp] theorem State.drawn_depth (s : State) : s.drawn.depth = s.depth := rfl
@[simp] theorem State.drawn_count (s : State) : s.drawn.count = s.count := rfl
@[simp] theorem State.drawn_status (s : State) : s.drawn.status = s.status := rfl
@[simp] theorem State.drawn_report (s : State) : s.drawn.report = s.report := rfl
@[simp] theorem State.drawn_save (s : State) : s.drawn.save = s.save := rfl
@[simp] theorem State.drawn_draws (s : State) : s.drawn.draws = s.draws + 1 := rfl

/-! State.advance -/

@[simp] theorem State.advance_params (n : Nat) (s : State) : (s.advance n).params = s.params := rfl
@[simp] theorem State.advance_pc (n : Nat) (s : State) : (s.advance n).pc = s.pc + n := rfl
@[simp] theorem State.advance_code (n : Nat) (s : State) : (s.advance n).code = s.code := rfl
@[simp] theorem State.advance_gas (n : Nat) (s : State) : (s.advance n).gas = s.gas := rfl
@[simp] theorem State.advance_address (n : Nat) (s : State) : (s.advance n).address = s.address := rfl
@[simp] theorem State.advance_origin (n : Nat) (s : State) : (s.advance n).origin = s.origin := rfl
@[simp] theorem State.advance_caller (n : Nat) (s : State) : (s.advance n).caller = s.caller := rfl
@[simp] theorem State.advance_callvalue (n : Nat) (s : State) : (s.advance n).callvalue = s.callvalue := rfl
@[simp] theorem State.advance_stack (n : Nat) (s : State) : (s.advance n).stack = s.stack := rfl
@[simp] theorem State.advance_mem (n : Nat) (s : State) : (s.advance n).mem = s.mem := rfl
@[simp] theorem State.advance_calldata (n : Nat) (s : State) : (s.advance n).calldata = s.calldata := rfl
@[simp] theorem State.advance_returndata (n : Nat) (s : State) : (s.advance n).returndata = s.returndata := rfl
@[simp] theorem State.advance_depth (n : Nat) (s : State) : (s.advance n).depth = s.depth := rfl
@[simp] theorem State.advance_count (n : Nat) (s : State) : (s.advance n).count = s.count := rfl
@[simp] theorem State.advance_status (n : Nat) (s : State) : (s.advance n).status = s.status := rfl
@[simp] theorem State.advance_report (n : Nat) (s : State) : (s.advance n).report = s.report := rfl
@[simp] theorem State.advance_save (n : Nat) (s : State) : (s.advance n).save = s.save := rfl
@[simp] theorem State.advance_draws (n : Nat) (s : State) : (s.advance n).draws = s.draws := rfl

/-! State.toEnd -/

@[simp] theorem State.toEnd_params (s : State) : s.toEnd.params = s.params := rfl
@[simp] theorem State.toEnd_pc (s : State) : s.toEnd.pc = s.code.length := rfl
@[simp] theorem State.toEnd_code (s : State) : s.toEnd.code = s.code := rfl
@[simp] theorem State.toEnd_gas (s : State) : s.toEnd.gas = s.gas := rfl
@[simp] theorem State.toEnd_address (s : State) : s.toEnd.address = s.address := rfl
@[simp] theorem State.toEnd_origin (s : State) : s.toEnd.origin = s.origin := rfl
@[simp] theorem State.toEnd_caller (s : State) : s.toEnd.caller = s.caller := rfl
@[simp] theorem State.toEnd_callvalue (s : State) : s.toEnd.callvalue = s.callvalue := rfl
@[simp] theorem State.toEnd_stack (s : State) : s.toEnd.stack = s.stack := rfl
@[simp] theorem State.toEnd_mem (s : State) : s.toEnd.mem = s.mem := rfl
@[simp] theorem State.toEnd_calldata (s : State) : s.toEnd.calldata = s.calldata := rfl
@[simp] theorem State.toEnd_returndata (s : State) : s.toEnd.returndata = s.returndata := rfl
@[simp] theorem State.toEnd_depth (s : State) : s.toEnd.depth = s.depth := rfl
@[simp] theorem State.toEnd_count (s : State) : s.toEnd.count = s.count := rfl
@[simp] theorem State.toEnd_status (s : State) : s.toEnd.status = s.status := rfl
@[simp] theorem State.toEnd_report (s : State) : s.toEnd.report = s.report := rfl
@[simp] theorem State.toEnd_save (s : State) : s.toEnd.save = s.save := rfl
@[simp] theorem State.toEnd_draws (s : State) : s.toEnd.draws = s.draws := rfl

/-! raise -/

@[simp] theorem raise_params (e : ErrorKind) (s : State) : (raise e s).params = s.params := rfl
@[simp] theorem raise_pc (e : ErrorKind) (s : State) : (raise e s).pc = s.pc := rfl
@[simp] theorem raise_code (e : ErrorKind) (s : State) : (raise e s).code = s.code := rfl
@[simp] theorem raise_gas (e : ErrorKind) (s : State) : (raise e s).gas = s.gas := rfl
@[simp] theorem raise_address (e : ErrorKind) (s : State) : (raise e s).address = s.address := rfl
@[simp] theorem raise_origin (e : ErrorKind) (s : State) : (raise e s).origin = s.origin := rfl
@[simp] theorem raise_caller (e : ErrorKind) (s : State) : (raise e s).caller = s.caller := rfl
@[simp] theorem raise_callvalue (e : ErrorKind) (s : State) : (raise e s).callvalue = s.callvalue := rfl
@[simp] theorem raise_stack (e : ErrorKind) (s : State) : (raise e s).stack = s.stack := rfl
@[simp] theorem raise_mem (e : ErrorKind) (s : State) : (raise e s).mem = s.mem := rfl
@[simp] theorem raise_calldata (e : ErrorKind) (s : State) : (raise e s).calldata = s.calldata := rfl
@[simp] theorem raise_returndata (e : ErrorKind) (s : State) : (raise e s).returndata = s.returndata := rfl
@[simp] theorem raise_depth (e : ErrorKind) (s : State) : (raise e s).depth = s.depth := rfl
@[simp] theorem raise_count (e : ErrorKind) (s : State) : (raise e s).count = s.count := rfl
@[simp] theorem raise_status (e : ErrorKind) (s : State) : (raise e s).status = .halted (.error e) := rfl
@[simp] theorem raise_report (e : ErrorKind) (s : State) : (raise e s).report = some ⟨s.pc, s.opByte, e, s.count⟩ := rfl
@[simp] theorem raise_save (e : ErrorKind) (s : State) : (raise e s).save = s.save := rfl
@[simp] theorem raise_draws (e : ErrorKind) (s : State) : (raise e s).draws = s.draws := rfl

/-! frameEnter -/

@[simp] theorem frameEnter_params (env : CallEnv) (c cd : List Byte) (s : State) : (frameEnter env c cd s).params = s.params := rfl
@[simp] theorem frameEnter_pc (env : CallEnv) (c cd : List Byte) (s : State) : (frameEnter env c cd s).pc = 0 := rfl
@[simp] theorem frameEnter_code (env : CallEnv) (c cd : List Byte) (s : State) : (frameEnter env c cd s).code = c := rfl
@[simp] theorem frameEnter_gas (env : CallEnv) (c cd : List Byte) (s : State) : (frameEnter env c cd s).gas = s.gas := rfl
@[simp] theorem frameEnter_address (env : CallEnv) (c cd : List Byte) (s : State) : (frameEnter env c cd s).address = env.address := rfl
@[simp] theorem frameEnter_origin (env : CallEnv) (c cd : List Byte) (s : State) : (frameEnter env c cd s).origin = s.origin := rfl
@[simp] theorem frameEnter_caller (env : CallEnv) (c cd : List Byte) (s : State) : (frameEnter env c cd s).caller = env.caller := rfl
@[simp] theorem frameEnter_callvalue (env : CallEnv) (c cd : List Byte) (s : State) : (frameEnter env c cd s).callvalue = env.callvalue := rfl
@[simp] theorem frameEnter_stack (env : CallEnv) (c cd : List Byte) (s : State) : (frameEnter env c cd s).stack = [] := rfl
@[simp] theorem frameEnter_mem (env : CallEnv) (c cd : List Byte) (s : State) : (frameEnter env c cd s).mem = .empty := rfl
@[simp] theorem frameEnter_calldata (env : CallEnv) (c cd : List Byte) (s : State) : (frameEnter env c cd s).calldata = cd := rfl
@[simp] theorem frameEnter_returndata (env : CallEnv) (c cd : List Byte) (s : State) : (frameEnter env c cd s).returndata = [] := rfl
@[simp] theorem frameEnter_depth (env : CallEnv) (c cd : List Byte) (s : State) : (frameEnter env c cd s).depth = s.depth + 1 := rfl
@[simp] theorem frameEnter_count (env : CallEnv) (c cd : List Byte) (s : State) : (frameEnter env c cd s).count = s.count := rfl
@[simp] theorem frameEnter_status (env : CallEnv) (c cd : List Byte) (s : State) : (frameEnter env c cd s).status = .running := rfl
@[simp] theorem frameEnter_report (env : CallEnv) (c cd : List Byte) (s : State) : (frameEnter env c cd s).report = s.report := rfl
@[simp] theorem frameEnter_save (env : CallEnv) (c cd : List Byte) (s : State) : (frameEnter env c cd s).save = s.save ++ [s.snapshot] := rfl
@[simp] theorem frameEnter_draws (env : CallEnv) (c cd : List Byte) (s : State) : (frameEnter env c cd s).draws = s.draws := rfl

/-! frameRestore -/

@[simp] theorem frameRestore_params (n : Snapshot) (s : State) : (frameRestore n s).params = s.params := rfl
@[simp] theorem frameRestore_pc (n : Snapshot) (s : State) : (frameRestore n s).pc = n.pc := rfl
@[simp] theorem frameRestore_code (n : Snapshot) (s : State) : (frameRestore n s).code = n.code := rfl
@[simp] theorem frameRestore_gas (n : Snapshot) (s : State) : (frameRestore n s).gas = s.gas := rfl
@[simp] theorem frameRestore_address (n : Snapshot) (s : State) : (frameRestore n s).address = n.address := rfl
@[simp] theorem frameRestore_origin (n : Snapshot) (s : State) : (frameRestore n s).origin = s.origin := rfl
@[simp] theorem frameRestore_caller (n : Snapshot) (s : State) : (frameRestore n s).caller = n.caller := rfl
@[simp] theorem frameRestore_callvalue (n : Snapshot) (s : State) : (frameRestore n s).callvalue = n.callvalue := rfl
@[simp] theorem frameRestore_stack (n : Snapshot) (s : State) : (frameRestore n s).stack = n.stack := rfl
@[simp] theorem frameRestore_mem (n : Snapshot) (s : State) : (frameRestore n s).mem = n.mem := rfl
@[simp] theorem frameRestore_calldata (n : Snapshot) (s : State) : (frameRestore n s).calldata = n.calldata := rfl
@[simp] theorem frameRestore_returndata (n : Snapshot) (s : State) : (frameRestore n s).returndata = s.returndata := rfl
@[simp] theorem frameRestore_depth (n : Snapshot) (s : State) : (frameRestore n s).depth = s.depth - 1 := rfl
@[simp] theorem frameRestore_count (n : Snapshot) (s : State) : (frameRestore n s).count = s.count := rfl
@[simp] theorem frameRestore_status (n : Snapshot) (s : State) : (frameRestore n s).status = .running := rfl
@[simp] theorem frameRestore_report (n : Snapshot) (s : State) : (frameRestore n s).report = s.report := rfl
@[simp] theorem frameRestore_save (n : Snapshot) (s : State) : (frameRestore n s).save = s.save.dropLast := rfl
@[simp] theorem frameRestore_draws (n : Snapshot) (s : State) : (frameRestore n s).draws = s.draws := rfl

/-! Single-field updates set with `with`, in the shape statements use. -/

theorem State.setStack_eq (s : State) (x : List Word) : s.setStack x = { s with stack := x } := rfl
theorem State.setMem_eq (s : State) (x : Memory) : s.setMem x = { s with mem := x } := rfl
theorem State.setPc_eq (s : State) (x : Nat) : s.setPc x = { s with pc := x } := rfl
theorem State.advance_eq (n : Nat) (s : State) : s.advance n = { s with pc := s.pc + n } := rfl
theorem State.counted_eq (s : State) : s.counted = { s with count := s.count + 1 } := rfl

/-- The opcode byte at a program counter inside the code. -/
theorem State.opByte_of_getElem (s : State) (b : Byte) (h : s.code[s.pc]? = some b) : s.opByte = b := by
  simp [State.opByte, h]

@[simp] theorem State.counted_opByte (s : State) : s.counted.opByte = s.opByte := rfl
@[simp] theorem State.drawn_opByte (s : State) : s.drawn.opByte = s.opByte := rfl
@[simp] theorem State.setStack_opByte (s : State) (x : List Word) : (s.setStack x).opByte = s.opByte := rfl
@[simp] theorem State.setMem_opByte (s : State) (x : Memory) : (s.setMem x).opByte = s.opByte := rfl
@[simp] theorem State.setReturndata_opByte (s : State) (x : List Byte) : (s.setReturndata x).opByte = s.opByte := rfl

end Sys2Proof.Machine
end

