-- ==== Sys2Proof/Laws/Ops.lean ====
section
/-! SUPPORT. One lemma per shared operation that says once everything it can do: a property of the result follows from the
property in each case. Beside them, the equations for a state whose case is known. -/

namespace Sys2Proof.Machine

/-! pop (spec/42_stack.md R181). -/

theorem popThen_nil (s : State) (k : Word → State → State) (h : s.stack = []) :
    popThen s k = raise .stackUnderflow s := by simp [popThen, h]

theorem popThen_cons (s : State) (k : Word → State → State) (a : Word) (rest : List Word) (h : s.stack = a :: rest) :
    popThen s k = k a (s.setStack rest) := by simp [popThen, h]

theorem popThen_elim {P : State → Prop} (s : State) (k : Word → State → State)
    (hnil : s.stack = [] → P (raise .stackUnderflow s))
    (hcons : ∀ a rest, s.stack = a :: rest → P (k a (s.setStack rest))) : P (popThen s k) := by
  cases h : s.stack with
  | nil => rw [popThen_nil s k h]; exact hnil h
  | cons a rest => rw [popThen_cons s k a rest h]; exact hcons a rest h

/-! push (R180). -/

theorem pushThen_full (v : Word) (s : State) (k : State → State) (h : s.stack.length = stackLimit) :
    pushThen v s k = raise .stackOverflow s := by simp [pushThen, h]

theorem pushThen_room (v : Word) (s : State) (k : State → State) (h : s.stack.length ≠ stackLimit) :
    pushThen v s k = k (s.setStack (v :: s.stack)) := by simp [pushThen, h]

theorem pushThen_elim {P : State → Prop} (v : Word) (s : State) (k : State → State)
    (hfull : s.stack.length = stackLimit → P (raise .stackOverflow s))
    (hroom : s.stack.length ≠ stackLimit → P (k (s.setStack (v :: s.stack)))) : P (pushThen v s k) := by
  by_cases h : s.stack.length = stackLimit
  · rw [pushThen_full v s k h]; exact hfull h
  · rw [pushThen_room v s k h]; exact hroom h

/-! dup and swap (R182, R183). -/

theorem dupThen_shallow (n : Nat) (s : State) (k : State → State) (h : n = 0 ∨ s.stack.length < n) :
    dupThen n s k = raise (dupSwapKind s.params) s := by simp only [dupThen, if_pos h]

theorem dupThen_deep (n : Nat) (s : State) (k : State → State) (h0 : n ≠ 0) (h : n ≤ s.stack.length) :
    dupThen n s k = pushThen (s.stack.getD (n - 1) 0) s k := by
  simp only [dupThen]; rw [if_neg]; omega

theorem dupThen_elim {P : State → Prop} (n : Nat) (s : State) (k : State → State)
    (hshallow : n = 0 ∨ s.stack.length < n → P (raise (dupSwapKind s.params) s))
    (hfull : n ≤ s.stack.length → s.stack.length = stackLimit → P (raise .stackOverflow s))
    (hroom : n ≠ 0 → n ≤ s.stack.length → s.stack.length ≠ stackLimit →
      P (k (s.setStack (s.stack.getD (n - 1) 0 :: s.stack)))) : P (dupThen n s k) := by
  by_cases h : n = 0 ∨ s.stack.length < n
  · rw [dupThen_shallow n s k h]; exact hshallow h
  · rw [dupThen_deep n s k (by omega) (by omega)]
    exact pushThen_elim _ s k (hfull (by omega)) (hroom (by omega) (by omega))

theorem swapThen_shallow (n : Nat) (s : State) (k : State → State) (h : n = 0 ∨ s.stack.length ≤ n) :
    swapThen n s k = raise (dupSwapKind s.params) s := by simp only [swapThen, if_pos h]

theorem swapThen_deep (n : Nat) (s : State) (k : State → State) (h0 : n ≠ 0) (h : n < s.stack.length) :
    swapThen n s k = k (s.setStack (exchangeTop n s.stack)) := by
  simp only [swapThen]; rw [if_neg]; omega

theorem swapThen_elim {P : State → Prop} (n : Nat) (s : State) (k : State → State)
    (hshallow : n = 0 ∨ s.stack.length ≤ n → P (raise (dupSwapKind s.params) s))
    (hdeep : n ≠ 0 → n < s.stack.length → P (k (s.setStack (exchangeTop n s.stack)))) : P (swapThen n s k) := by
  by_cases h : n = 0 ∨ s.stack.length ≤ n
  · rw [swapThen_shallow n s k h]; exact hshallow h
  · rw [swapThen_deep n s k (by omega) (by omega)]; exact hdeep (by omega) (by omega)

@[simp] theorem exchangeTop_length (n : Nat) (xs : List Word) : (exchangeTop n xs).length = xs.length := by
  simp [exchangeTop]

/-! Memory extension, reads and writes (spec/20_memory.md R63 to R67). -/

theorem extendThen_empty (off : Nat) (s : State) (k : State → State) : extendThen off 0 s k = k s := by
  simp [extendThen]

theorem extendThen_exceeded (off n : Nat) (s : State) (k : State → State) (h0 : n ≠ 0)
    (h : s.params.memLimit < off + n) : extendThen off n s k = raise .outOfGas s := by simp [extendThen, h0, h]

theorem extendThen_fits (off n : Nat) (s : State) (k : State → State) (h0 : n ≠ 0)
    (h : off + n ≤ s.params.memLimit) :
    extendThen off n s k = k (s.setMem (s.mem.grow (roundUp32 (off + n)))) := by
  simp [extendThen, h0, Nat.not_lt.mpr h]

theorem extendThen_elim {P : State → Prop} (off n : Nat) (s : State) (k : State → State)
    (hempty : n = 0 → P (k s))
    (hexceeded : n ≠ 0 → s.params.memLimit < off + n → P (raise .outOfGas s))
    (hfits : n ≠ 0 → off + n ≤ s.params.memLimit → P (k (s.setMem (s.mem.grow (roundUp32 (off + n)))))) :
    P (extendThen off n s k) := by
  by_cases h0 : n = 0
  · subst h0; rw [extendThen_empty]; exact hempty rfl
  · by_cases h : s.params.memLimit < off + n
    · rw [extendThen_exceeded off n s k h0 h]; exact hexceeded h0 h
    · rw [extendThen_fits off n s k h0 (by omega)]; exact hfits h0 (by omega)

/-- A memory extended to cover a range covers it, and keeps its canonical form. -/
theorem Memory.grow_covers (m : Memory) (off n : Nat) : off + n ≤ (m.grow (roundUp32 (off + n))).size :=
  le_trans (le_roundUp32 _) (le_max_right _ _)

theorem Memory.grow_roundUp32_wf {m : Memory} (h : m.wf = true) (len : Nat) : (m.grow (roundUp32 len)).wf = true :=
  Memory.grow_wf h (roundUp32_mod len)

/-- The last writes of an instruction with one result. -/
theorem pushResult_room (v : Word) (s : State) (h : s.stack.length ≠ stackLimit) :
    pushResult v s = { s with stack := v :: s.stack, pc := s.pc + 1 } := by
  rw [pushResult, pushThen_room v s _ h]; rfl

/-! The operand forms (spec/40_alu_arith.md R118). -/

theorem pop2Then_cons (s : State) (k : Word → Word → State → State) (a b : Word) (rest : List Word)
    (h : s.stack = a :: b :: rest) : pop2Then s k = k a b (s.setStack rest) := by
  rw [pop2Then, popThen_cons s _ a (b :: rest) h, popThen_cons _ _ b rest rfl]; rfl

theorem pop2Then_short (s : State) (k : Word → Word → State → State) (h : s.stack.length < 2) :
    pop2Then s k = raise .stackUnderflow (s.setStack []) := by
  match hs : s.stack with
  | [] => rw [pop2Then, popThen_nil s _ hs]; cases s; simp_all [State.setStack]
  | [a] => rw [pop2Then, popThen_cons s _ a [] hs, popThen_nil _ _ rfl]
  | _ :: _ :: _ => simp [hs] at h

theorem pop3Then_cons (s : State) (k : Word → Word → Word → State → State) (a b c : Word) (rest : List Word)
    (h : s.stack = a :: b :: c :: rest) : pop3Then s k = k a b c (s.setStack rest) := by
  rw [pop3Then, popThen_cons s _ a (b :: c :: rest) h, popThen_cons _ _ b (c :: rest) rfl,
    popThen_cons _ _ c rest rfl]; rfl

theorem pop3Then_short (s : State) (k : Word → Word → Word → State → State) (h : s.stack.length < 3) :
    pop3Then s k = raise .stackUnderflow (s.setStack []) := by
  match hs : s.stack with
  | [] => rw [pop3Then, popThen_nil s _ hs]; cases s; simp_all [State.setStack]
  | [a] => rw [pop3Then, popThen_cons s _ a [] hs, popThen_nil _ _ rfl]
  | [a, b] => rw [pop3Then, popThen_cons s _ a [b] hs, popThen_cons _ _ b [] rfl, popThen_nil _ _ rfl]; rfl
  | _ :: _ :: _ :: _ => simp only [hs, List.length_cons] at h; omega

end Sys2Proof.Machine
end

