-- ==== Sys2Proof/Laws/Effects.lean ====
section
/-! SUPPORT. What the work inside one instruction can do, said once: `Within` for the primitives up to its last write,
`InBlockEffect` for a whole in-block instruction, `UnitEffect` and `CallEffect` for an external one. -/

namespace Sys2Proof.Machine

/-! Up to the last write, only the stack and the memory have changed, within their limits. -/

/-- t is s but for its stack and memory, which kept the stack limit and the canonical form, and memory did not shrink. -/
structure Within (s t : State) : Prop where
  only : t = { s with stack := t.stack, mem := t.mem }
  stack : s.stack.length ≤ stackLimit → t.stack.length ≤ stackLimit
  mem : s.mem.wf = true → t.mem.wf = true
  size : s.mem.size ≤ t.mem.size

theorem Within.refl (s : State) : Within s s := ⟨rfl, id, id, le_rfl⟩

theorem Within.trans {s t u : State} (h : Within s t) (k : Within t u) : Within s u := by
  refine ⟨?_, k.stack ∘ h.stack, k.mem ∘ h.mem, h.size.trans k.size⟩
  rw [k.only, h.only]

theorem Within.setStack (s : State) (st : List Word) (h : s.stack.length ≤ stackLimit → st.length ≤ stackLimit) :
    Within s (s.setStack st) := ⟨rfl, h, id, le_rfl⟩

theorem Within.setMem (s : State) (m : Memory) (h : s.mem.wf = true → m.wf = true) (hs : s.mem.size ≤ m.size) :
    Within s (s.setMem m) := ⟨rfl, id, h, hs⟩

theorem Within.pc {s t : State} (h : Within s t) : t.pc = s.pc := by rw [h.only]
theorem Within.code {s t : State} (h : Within s t) : t.code = s.code := by rw [h.only]
theorem Within.count {s t : State} (h : Within s t) : t.count = s.count := by rw [h.only]
theorem Within.status {s t : State} (h : Within s t) : t.status = s.status := by rw [h.only]
theorem Within.report {s t : State} (h : Within s t) : t.report = s.report := by rw [h.only]

theorem within_pop {P : State → Prop} {s0 s : State} (h : Within s0 s) (k : Word → State → State)
    (hr : ∀ t, Within s0 t → P (raise .stackUnderflow t)) (hk : ∀ a t, Within s0 t → P (k a t)) : P (popThen s k) := by
  apply popThen_elim
  · intro _; exact hr s h
  · intro a rest hs
    exact hk a _ (h.trans (Within.setStack s rest (by simp only [hs, List.length_cons]; omega)))

theorem within_push {P : State → Prop} {s0 s : State} (h : Within s0 s) (v : Word) (k : State → State)
    (hr : ∀ t, Within s0 t → P (raise .stackOverflow t)) (hk : ∀ t, Within s0 t → P (k t)) : P (pushThen v s k) := by
  apply pushThen_elim
  · intro _; exact hr s h
  · intro hs
    exact hk _ (h.trans (Within.setStack s (v :: s.stack) (by simp only [List.length_cons]; omega)))

theorem within_extend {P : State → Prop} {s0 s : State} (h : Within s0 s) (off n : Nat) (k : State → State)
    (hr : ∀ t, Within s0 t → P (raise .outOfGas t))
    (hk : ∀ t, Within s0 t → (n ≠ 0 → off + n ≤ t.mem.size) → P (k t)) : P (extendThen off n s k) := by
  apply extendThen_elim
  · intro hn; exact hk s h (fun h0 => absurd hn h0)
  · intro _ _; exact hr s h
  · intro _ _
    exact hk _ (h.trans (Within.setMem s _ (fun hw => Memory.grow_roundUp32_wf hw _) (le_max_left _ _)))
      (fun _ => Memory.grow_covers _ _ _)

theorem within_read {P : State → Prop} {s0 s : State} (h : Within s0 s) (off n : Nat) (k : List Byte → State → State)
    (hr : ∀ t, Within s0 t → P (raise .outOfGas t)) (hk : ∀ bs t, Within s0 t → P (k bs t)) : P (readThen off n s k) := by
  apply within_extend h off n _ hr
  intro t ht _; exact hk _ t ht

theorem within_write {P : State → Prop} {s0 s : State} (h : Within s0 s) (off : Nat) (bytes : List Byte)
    (k : State → State) (hr : ∀ t, Within s0 t → P (raise .outOfGas t)) (hk : ∀ t, Within s0 t → P (k t)) :
    P (writeThen off bytes s k) := by
  apply within_extend h off bytes.length _ hr
  intro t ht hc
  refine hk _ (ht.trans (Within.setMem t _ (fun hw => ?_) (Memory.writeBytes_size _ _ _).ge))
  cases bytes with
  | nil => exact hw
  | cons b bs => exact Memory.writeBytes_wf hw _ (hc (by simp))

/-! A whole in-block instruction. -/

/-- What an in-block instruction can do to a state: six fields at most change; it ends without a halt, or halts with an error
of spec/60_exceptions.md R271 latched at its own program counter. -/
structure InBlockEffect (s t : State) : Prop where
  only : t = { s with pc := t.pc, stack := t.stack, mem := t.mem, returndata := t.returndata, status := t.status,
                      report := t.report }
  stack : s.stack.length ≤ stackLimit → t.stack.length ≤ stackLimit
  mem : s.mem.wf = true → t.mem.wf = true
  size : s.mem.size ≤ t.mem.size
  pc : s.pc < s.code.length → t.pc ≤ s.code.length
  ending : (t.status = s.status ∧ t.report = s.report) ∨
    (∃ e : ErrorKind, e.code ∈ [0, 1, 2, 3, 4, 12, 13, 14, 15, 16] ∧ t.status = .halted (.error e) ∧ t.pc = s.pc ∧
      t.report = some { pc := s.pc, op := s.opByte, err := e, count := s.count })

theorem Within.fail {s t : State} (h : Within s t) (data : List Byte) (e : ErrorKind)
    (he : e.code ∈ [0, 1, 2, 3, 4, 12, 13, 14, 15, 16]) : InBlockEffect s (raise e (t.setReturndata data)) := by
  refine ⟨?_, h.stack, h.mem, h.size, ?_, .inr ⟨e, he, rfl, h.pc, ?_⟩⟩
  · have := h.only; cases s; cases t; simp_all [raise, State.setReturndata]
  · intro hp; rw [show (raise e (t.setReturndata data)).pc = s.pc from h.pc]; omega
  · simp [raise, State.opByte, h.pc, h.code, h.count]

theorem Within.raise {s t : State} (h : Within s t) (e : ErrorKind)
    (he : e.code ∈ [0, 1, 2, 3, 4, 12, 13, 14, 15, 16]) : InBlockEffect s (raise e t) := h.fail t.returndata e he

theorem Within.finish {s t : State} (h : Within s t) (pc : Nat) (data : List Byte)
    (hp : s.pc < s.code.length → pc ≤ s.code.length) : InBlockEffect s { t with pc := pc, returndata := data } := by
  refine ⟨?_, h.stack, h.mem, h.size, hp, .inl ⟨h.status, h.report⟩⟩
  have := h.only; cases s; cases t; simp_all

theorem Within.advance {s t : State} (h : Within s t) : InBlockEffect s (t.advance 1) :=
  h.finish (t.pc + 1) t.returndata (by rw [h.pc]; exact id)

theorem inBlock_pushResult {s0 s : State} (h : Within s0 s) (v : Word) : InBlockEffect s0 (pushResult v s) :=
  within_push h v _ (fun _ ht => ht.raise _ (by decide)) fun _ ht => ht.advance

theorem inBlock_alu1 (f : Word → Word) (s : State) : InBlockEffect s (alu1 f s) :=
  within_pop (Within.refl s) _ (fun _ ht => ht.raise _ (by decide)) fun _ _ ht => inBlock_pushResult ht _

theorem inBlock_pop2 (s : State) (k : Word → Word → State → State)
    (hk : ∀ a b t, Within s t → InBlockEffect s (k a b t)) : InBlockEffect s (pop2Then s k) :=
  within_pop (Within.refl s) _ (fun _ ht => ht.raise _ (by decide)) fun a _ ht =>
    within_pop ht _ (fun _ ht => ht.raise _ (by decide)) fun b _ ht => hk a b _ ht

theorem inBlock_pop3 (s : State) (k : Word → Word → Word → State → State)
    (hk : ∀ a b c t, Within s t → InBlockEffect s (k a b c t)) : InBlockEffect s (pop3Then s k) :=
  within_pop (Within.refl s) _ (fun _ ht => ht.raise _ (by decide)) fun a _ ht =>
    within_pop ht _ (fun _ ht => ht.raise _ (by decide)) fun b _ ht =>
      within_pop ht _ (fun _ ht => ht.raise _ (by decide)) fun c _ ht => hk a b c _ ht

theorem inBlock_alu2 (f : Word → Word → Word) (s : State) : InBlockEffect s (alu2 f s) :=
  inBlock_pop2 s _ fun _ _ _ ht => inBlock_pushResult ht _

theorem inBlock_alu3 (f : Word → Word → Word → Word) (s : State) : InBlockEffect s (alu3 f s) :=
  inBlock_pop3 s _ fun _ _ _ _ ht => inBlock_pushResult ht _

theorem inBlock_pushImmediate (n : Nat) (imm : Word) (s : State) : InBlockEffect s (pushImmediate n imm s) := by
  rw [pushImmediate]
  split_ifs with h
  · exact (Within.refl s).raise _ (by decide)
  · exact within_push (Within.refl s) _ _ (fun _ ht => ht.raise _ (by decide)) fun t ht =>
      ht.finish (t.pc + (1 + n)) t.returndata (by rw [ht.pc]; omega)

theorem dupSwapKind_code (p : Params) : (dupSwapKind p).code ∈ [0, 1, 2, 3, 4, 12, 13, 14, 15, 16] := by
  unfold dupSwapKind; split <;> decide

theorem inBlock_dup (n : Nat) (s : State) : InBlockEffect s (dupThen n s (State.advance 1)) :=
  dupThen_elim n s _ (fun _ => (Within.refl s).raise _ (dupSwapKind_code _))
    (fun _ _ => (Within.refl s).raise _ (by decide)) fun _ _ hr =>
      (Within.setStack s _ (by simp only [List.length_cons]; omega)).advance

theorem inBlock_swap (n : Nat) (s : State) : InBlockEffect s (swapThen n s (State.advance 1)) :=
  swapThen_elim n s _ (fun _ => (Within.refl s).raise _ (dupSwapKind_code _)) fun _ _ =>
    (Within.setStack s _ (by rw [exchangeTop_length]; exact id)).advance

theorem inBlock_jumpTo {s0 s : State} (h : Within s0 s) (t : Word) : InBlockEffect s0 (jumpTo t s) := by
  rw [jumpTo]
  split_ifs with hv
  · refine h.finish t.toNat s.returndata fun _ => ?_
    simp only [validJump, h.code, Bool.and_eq_true, decide_eq_true_eq] at hv
    omega
  · exact h.raise _ (by decide)

theorem inBlock_mload (s : State) : ∃ t, execMload s = .next t ∧ InBlockEffect s t :=
  ⟨_, rfl, within_pop (Within.refl s) _ (fun _ ht => ht.raise _ (by decide)) fun _ _ ht =>
    within_read ht _ _ _ (fun _ ht => ht.raise _ (by decide)) fun _ _ ht => inBlock_pushResult ht _⟩

theorem inBlock_store (s : State) (bytes : Word → List Byte) :
    InBlockEffect s (pop2Then s fun off v t => writeThen off.toNat (bytes v) t (State.advance 1)) :=
  inBlock_pop2 s _ fun _ _ _ ht => within_write ht _ _ _ (fun _ ht => ht.raise _ (by decide)) fun _ ht => ht.advance

theorem inBlock_mcopy (s : State) : ∃ t, execMcopy s = .next t ∧ InBlockEffect s t := by
  refine ⟨_, rfl, inBlock_pop3 s _ fun dst src n _ ht =>
    within_extend ht _ _ _ (fun _ ht => ht.raise _ (by decide)) fun t ht hc => ?_⟩
  refine (ht.trans (Within.setMem t _ (fun hw => ?_) (Memory.writeBytes_size _ _ _).ge)).advance
  by_cases hn : n.toNat = 0
  · rw [hn]; exact hw
  · apply Memory.writeBytes_wf hw
    rw [Memory.readBytes_length]
    have := hc hn
    omega

theorem inBlock_jumpi (s : State) : ∃ t, execJumpi s = .next t ∧ InBlockEffect s t := by
  refine ⟨_, rfl, inBlock_pop2 s _ fun _ _ _ ht => ?_⟩
  split_ifs
  · exact inBlock_jumpTo ht _
  · exact ht.advance

theorem inBlock_stop (s : State) : ∃ t, execStop s = .next t ∧ InBlockEffect s t := by
  refine ⟨_, rfl, ?_⟩
  split_ifs
  · exact (Within.refl s).finish s.code.length [] fun _ => le_rfl
  · exact (Within.refl s).finish s.code.length s.returndata fun _ => le_rfl

theorem inBlock_ret (s : State) : ∃ t, execRet s = .next t ∧ InBlockEffect s t :=
  ⟨_, rfl, inBlock_pop2 s _ fun _ _ _ ht => within_read ht _ _ _ (fun _ ht => ht.raise _ (by decide)) fun bs t ht =>
    ht.finish t.code.length bs fun _ => by rw [ht.code]⟩

theorem inBlock_revert (s : State) : ∃ t, execRevert s = .next t ∧ InBlockEffect s t := by
  refine ⟨_, rfl, inBlock_pop2 s _ fun _ n _ ht =>
    within_read ht _ _ _ (fun _ ht => ht.raise _ (by decide)) fun bs t ht => ?_⟩
  dsimp only
  by_cases hn : n.toNat = 0
  · rw [if_pos hn]
    split_ifs
    · exact ht.fail bs .revertWithoutData (by decide)
    · exact ht.raise .revertWithoutData (by decide)
  · rw [if_neg hn]
    split_ifs
    · exact ht.fail bs (.revertWithData bs) (by simp [ErrorKind.code])
    · exact ht.raise (.revertWithData bs) (by simp [ErrorKind.code])

theorem inBlock_pop (s : State) : ∃ t, execPop s = .next t ∧ InBlockEffect s t :=
  ⟨_, rfl, within_pop (Within.refl s) _ (fun _ ht => ht.raise _ (by decide)) fun _ _ ht => ht.advance⟩

theorem inBlock_jump (s : State) : ∃ t, execJump s = .next t ∧ InBlockEffect s t :=
  ⟨_, rfl, within_pop (Within.refl s) _ (fun _ ht => ht.raise _ (by decide)) fun _ _ ht => inBlock_jumpTo ht _⟩

/-- Every in-block instruction answers a next state, with an in-block effect. -/
theorem exec_inBlock (i : Instr) (s : State) (hi : inBlockCategory i ≠ none) :
    ∃ t, exec i s = .next t ∧ InBlockEffect s t := by
  cases i
  all_goals try (exact absurd rfl hi)
  all_goals try (refine ⟨_, rfl, ?_⟩; first
      | with_reducible exact inBlock_alu2 _ _
      | with_reducible exact inBlock_alu3 _ _
      | with_reducible exact inBlock_alu1 _ _
      | with_reducible exact inBlock_pushImmediate _ _ _
      | with_reducible exact inBlock_dup _ _
      | with_reducible exact inBlock_swap _ _
      | with_reducible exact inBlock_pushResult (Within.refl s) _
      | with_reducible exact (Within.refl s).advance)
  · exact inBlock_stop s
  · exact inBlock_pop s
  · exact inBlock_mload s
  · exact ⟨_, rfl, inBlock_store s wordToBytes⟩
  · exact ⟨_, rfl, inBlock_store s fun v => [v.extractLsb' 0 8]⟩
  · exact inBlock_jump s
  · exact inBlock_jumpi s
  · exact inBlock_mcopy s
  · exact inBlock_ret s
  · exact inBlock_revert s

end Sys2Proof.Machine
end

