-- ==== Sys2Proof/Laws/External.lean ====
section
/-! SUPPORT. What an external opcode can do: its unit's primitives (`runActions`), its ending, and for a call or create opcode
the frame it may enter or be refused (spec/45_frames_external.md R251 to R257). -/

namespace Sys2Proof.Machine

/-! The unit's primitives. -/

theorem within_actions {P : State → Prop} {s0 : State} (as : List ExtAction) (k : State → State)
    (hr : ∀ e t, Within s0 t → P (raise e t)) (hk : ∀ t, Within s0 t → P (k t)) :
    ∀ s : State, Within s0 s → P (runActions as s k) := by
  induction as with
  | nil => exact hk
  | cons a as ih =>
    intro s h
    cases a with
    | pop => exact within_pop h _ (hr _) fun _ t ht => ih t ht
    | push v => exact within_push h _ _ (hr _) fun t ht => ih t ht
    | memExtend off n => exact within_extend h _ _ _ (hr _) fun t ht _ => ih t ht
    | memRead off n => exact within_read h _ _ _ (hr _) fun _ t ht => ih t ht
    | memWrite off bytes => exact within_write h _ _ _ (hr _) fun t ht => ih t ht

/-- Popping k operands that are there removes them. -/
theorem runActions_pops (k : Nat) (as : List ExtAction) (s : State) (f : State → State) (h : k ≤ s.stack.length) :
    runActions (List.replicate k .pop ++ as) s f = runActions as (s.setStack (s.stack.drop k)) f := by
  induction k generalizing s with
  | zero => rfl
  | succ k ih =>
    match hs : s.stack with
    | [] => simp [hs] at h
    | a :: rest =>
      rw [hs, List.length_cons] at h
      rw [List.replicate_succ, List.cons_append, runActions, popThen_cons s _ a rest hs, ih _ (by simp; omega)]
      rfl

/-- Popping more operands than there are pops those there and underflows (R181). -/
theorem runActions_pops_short (k : Nat) (as : List ExtAction) (s : State) (f : State → State) (h : s.stack.length < k) :
    runActions (List.replicate k .pop ++ as) s f = raise .stackUnderflow (s.setStack []) := by
  obtain ⟨j, rfl⟩ := Nat.exists_eq_add_of_lt h
  have hd := runActions_pops s.stack.length (List.replicate (j + 1) .pop ++ as) s f le_rfl
  rw [← List.append_assoc, List.replicate_append_replicate, ← Nat.add_assoc] at hd
  rw [hd, List.drop_length, List.replicate_succ, List.cons_append, runActions, popThen_nil _ _ (by simp)]

/-- Pushing words that there is room for stacks them, the last on top. -/
theorem runActions_pushes (vs : List Word) (s : State) (f : State → State) (h : s.stack.length + vs.length ≤ stackLimit) :
    runActions (vs.map .push) s f = f (s.setStack (vs.reverse ++ s.stack)) := by
  induction vs generalizing s with
  | nil => rfl
  | cons v vs ih =>
    rw [List.length_cons] at h
    rw [List.map_cons, runActions, pushThen_room v s _ (by omega), ih _ (by simp; omega)]
    simp [State.setStack]

/-- An input region that fits: its bytes, and memory grown to cover it. -/
theorem readThen_fits (off n : Nat) (s : State) (k : List Byte → State → State)
    (h : n = 0 ∨ off + n ≤ s.params.memLimit) :
    readThen off n s k = k (s.mem.readBytes off n)
      (s.setMem (s.mem.grow (if n = 0 then s.mem.size else roundUp32 (off + n)))) := by
  by_cases hn : n = 0
  · subst hn
    rw [readThen, extendThen_empty, if_pos rfl]
    simp [Memory.grow, State.setMem, Memory.readBytes]
  · rw [readThen, extendThen_fits off n s _ hn (by omega), if_neg hn]; rfl

/-! The end of an external opcode. -/

/-- What an external opcode that is complete has done to a state: five fields at most changed; success one byte on or at L, or
an error latched at its own program counter (R251). -/
structure UnitEffect (s t : State) : Prop where
  only : t = { s with pc := t.pc, stack := t.stack, mem := t.mem, status := t.status, report := t.report }
  stack : s.stack.length ≤ stackLimit → t.stack.length ≤ stackLimit
  mem : s.mem.wf = true → t.mem.wf = true
  size : s.mem.size ≤ t.mem.size
  ending : (t.status = s.status ∧ t.report = s.report ∧ (t.pc = s.pc + 1 ∨ t.pc = s.code.length)) ∨
    (∃ e : ErrorKind, t.status = .halted (.error e) ∧ t.pc = s.pc ∧
      t.report = some { pc := s.pc, op := s.opByte, err := e, count := s.count })

theorem Within.unitFail {s t : State} (h : Within s t) (e : ErrorKind) : UnitEffect s (Machine.raise e t) := by
  refine ⟨?_, h.stack, h.mem, h.size, .inr ⟨e, rfl, h.pc, ?_⟩⟩
  · have := h.only; cases s; cases t; simp_all [Machine.raise]
  · simp [Machine.raise, State.opByte, h.pc, h.code, h.count]

theorem Within.unitDone {s t : State} (h : Within s t) (pc : Nat) (hp : pc = s.pc + 1 ∨ pc = s.code.length) :
    UnitEffect s (t.setPc pc) := by
  refine ⟨?_, h.stack, h.mem, h.size, .inl ⟨h.status, h.report, hp⟩⟩
  have := h.only; cases s; cases t; simp_all [State.setPc]

theorem unit_finishWith {s t : State} (h : Within s t) (e : ExtEnding) : UnitEffect s (finishWith e t) := by
  cases e with
  | advance => exact h.unitDone _ (.inl (by rw [h.pc]))
  | toEnd => exact h.unitDone _ (.inr (by rw [h.code]))
  | fail e => exact h.unitFail e

theorem unit_pushResult {s t : State} (h : Within s t) (v : Word) : UnitEffect s (pushResult v t) :=
  within_push h v _ (fun _ ht => ht.unitFail _) fun _ ht => ht.unitDone _ (.inl (by rw [ht.pc]))

theorem unit_applyReply {s t : State} (h : Within s t) (r : ExtReply) : UnitEffect s (applyReply r t) :=
  within_actions r.actions _ (fun e _ ht => ht.unitFail e) (fun _ ht => unit_finishWith ht r.ending) t h

/-- The end of a call: a complete opcode's effect on the state itself or, after a draw, on the state with the draw counted. -/
theorem unit_finishCall {s t : State} (h : Within s t) (b : Byte) (ok : Bool) (drawnOn : State) :
    ∃ s', s' = { s with draws := s'.draws } ∧ s.draws ≤ s'.draws ∧ UnitEffect s' (finishCall b ok drawnOn t) := by
  unfold finishCall
  split_ifs
  · exact ⟨s, rfl, le_rfl, unit_pushResult h _⟩
  · have hd : Within s.drawn t.drawn := ⟨by rw [h.only]; rfl, h.stack, h.mem, h.size⟩
    exact ⟨s.drawn, rfl, Nat.le_succ _, unit_applyReply hd _⟩

/-- A call or create opcode that ends in success after its frame stands one byte on (R256). -/
theorem finishCall_pc (b : Byte) (ok : Bool) (drawnOn s : State) (h : (finishCall b ok drawnOn s).status = .running) :
    (finishCall b ok drawnOn s).pc = s.pc + 1 := by
  revert h
  unfold finishCall
  split_ifs
  · exact pushThen_elim (P := fun t => t.status = .running → t.pc = s.pc + 1) _ s _ (fun _ h => by simp at h) fun _ _ => rfl
  · refine within_actions (P := fun t => t.status = .running → t.pc = s.pc + 1) (s0 := s.drawn) _ _
      (fun e _ _ h => by simp at h) (fun t ht => ?_) s.drawn (Within.refl _)
    dsimp only [resumeEnding]
    split
    · intro _; exact congrArg (· + 1) ht.pc
    · intro h; simp [finishWith] at h

/-! The call and create opcodes. -/

/-- What a call or create opcode can do: complete (with the draw counter and, after a frame without code, the returndata
changed beside what a unit can change), or enter a frame from a state within s whose stack has room for the flag (R256). -/
def CallEffect (s t : State) : Prop :=
  (∃ s', s' = { s with draws := s'.draws, returndata := s'.returndata } ∧ s.draws ≤ s'.draws ∧ UnitEffect s' t) ∨
  (∃ (m : State) (env : CallEnv) (code cd : List Byte), Within s m ∧
    (s.stack.length ≤ stackLimit → m.stack.length < stackLimit) ∧ t = frameEnter env code cd m)

theorem UnitEffect.call {s t : State} (h : UnitEffect s t) : CallEffect s t := .inl ⟨s, rfl, le_rfl, h⟩

/-- Entering a frame and restoring it at once leaves the empty returndata and a running status, nothing else. -/
theorem frameRestore_frameEnter (s : State) (env : CallEnv) (code cd : List Byte) :
    frameRestore s.snapshot (frameEnter env code cd s) = { s with returndata := [], status := .running } := by
  cases s; simp [frameRestore, frameEnter, State.snapshot]

theorem call_enterFrame {s t : State} (h : Within s t)
    (hroom : s.stack.length ≤ stackLimit → t.stack.length < stackLimit) (hs : s.status = .running) (b : Byte) (env : CallEnv)
    (input : List Byte) (code : Option (List Byte)) : CallEffect s (enterFrame b env input code t) := by
  unfold enterFrame
  split
  · split
    · obtain ⟨s', h1, h2, h3⟩ := unit_finishCall h b false t
      exact .inl ⟨s', by rw [h1], h2, h3⟩
    · exact (h.unitFail _).call
  · split
    · exact .inr ⟨t, _, _, _, h, hroom, rfl⟩
    · dsimp only
      rw [frameRestore_frameEnter]
      have hw : Within ({ s with returndata := [] } : State) { t with returndata := [], status := .running } := by
        refine ⟨?_, h.stack, h.mem, h.size⟩
        have := h.only; cases s; cases t; simp_all
      obtain ⟨s', h1, h2, h3⟩ := unit_finishCall hw b t.params.nocodeOk
        (frameEnter (bindEnv b env t) [] (innerInput b t.params input) t)
      exact .inl ⟨s', by rw [h1], h2, h3⟩

/-- Growing memory over some regions leaves the stack as it is. -/
theorem within_growth {P : State → Prop} {s0 : State} (rs : List (Word × Word)) (k : State → State)
    (hr : ∀ e t, Within s0 t → P (raise e t)) :
    ∀ s, Within s0 s → (∀ t, Within s0 t → t.stack = s.stack → P (k t)) →
      P (runActions (rs.map fun r => .memExtend r.1 r.2) s k) := by
  induction rs with
  | nil => exact fun s h hk => hk s h rfl
  | cons r rs ih =>
    intro s h hk
    refine extendThen_elim (P := P) _ _ _ _ (fun _ => ih s h hk) (fun _ _ => hr _ s h) fun _ _ => ?_
    exact ih _ (h.trans (.setMem s _ (fun hw => Memory.grow_roundUp32_wf hw _) (le_max_left _ _))) hk

/-- What precedes a frame: an error, or a state within s whose stack has room for the flag (R252, R256). -/
theorem within_frameActions {P : State → Prop} (f : CallFrame) (s : State) (k : State → State)
    (hr : ∀ e t, Within s t → P (raise e t))
    (hk : ∀ t, Within s t → (s.stack.length ≤ stackLimit → t.stack.length < stackLimit) → P (k t)) :
    P (runActions (frameActions f) s k) := by
  by_cases h : f.moreOperands + 1 ≤ s.stack.length
  · rw [frameActions, runActions_pops _ _ _ _ h]
    refine within_growth f.grown k hr _ (.setStack s _ (by simp; omega)) fun t ht hst => hk t ht fun hl => ?_
    rw [hst, State.setStack_stack, List.length_drop]
    omega
  · rw [frameActions, runActions_pops_short _ _ _ _ (by omega)]
    exact hr _ _ (.setStack s _ (by simp))

/-- A call or create opcode, after its draw. -/
theorem call_callOp (b : Byte) (s : State) (hs : s.status = .running) : CallEffect s.drawn (callOp b s) := by
  unfold callOp applyCall
  split
  · exact (unit_applyReply (Within.refl _) _).call
  · rename_i f _
    refine within_frameActions f _ _ (fun e t ht => (ht.unitFail e).call) fun t ht hl => ?_
    refine extendThen_elim (P := CallEffect s.drawn) _ _ _ _ (fun _ => ?_) (fun _ _ => (ht.unitFail _).call) fun _ _ => ?_
    · exact call_enterFrame ht hl hs b f.env _ f.code
    · have hg := ht.trans (.setMem t _ (fun hw => Memory.grow_roundUp32_wf hw (f.inOff.toNat + f.inSize.toNat)) (le_max_left _ _))
      exact call_enterFrame hg hl hs b f.env _ f.code

end Sys2Proof.Machine
end

