-- ==== Sys2Proof/Laws/PerInstr.lean ====
section
/-! SUPPORT. Per-instruction laws. `EncodedLength`: an instruction's bytes begin with its opcode byte, and there are as many of
them as that byte alone says (spec/30_encoding.md R90, R91). -/

namespace Sys2Proof.Laws.EncodedLength

open Sys2Proof.Machine (natToBytes_length)

/-- The bytes of i start with its opcode byte and have the length that byte gives. -/
def Statement (i : Instr) : Prop := (encode i).head? = some i.opcode ∧ (encode i).length = instrLength i.opcode

/-- It holds of a PUSH whose opcode byte gives the length of its immediate and one more. -/
theorem of_pushParts (i : Instr) (n : Nat) (imm : Word) (h : i.pushParts = some (n, imm))
    (hl : instrLength i.opcode = n + 1) : Statement i := by
  simp [Statement, encode, h, hl]

theorem stop : Statement .stop := ⟨rfl, rfl⟩
theorem add : Statement .add := ⟨rfl, rfl⟩
theorem mul : Statement .mul := ⟨rfl, rfl⟩
theorem sub : Statement .sub := ⟨rfl, rfl⟩
theorem div : Statement .div := ⟨rfl, rfl⟩
theorem sdiv : Statement .sdiv := ⟨rfl, rfl⟩
theorem mod : Statement .mod := ⟨rfl, rfl⟩
theorem smod : Statement .smod := ⟨rfl, rfl⟩
theorem addmod : Statement .addmod := ⟨rfl, rfl⟩
theorem mulmod : Statement .mulmod := ⟨rfl, rfl⟩
theorem exp : Statement .exp := ⟨rfl, rfl⟩
theorem signextend : Statement .signextend := ⟨rfl, rfl⟩
theorem lt : Statement .lt := ⟨rfl, rfl⟩
theorem gt : Statement .gt := ⟨rfl, rfl⟩
theorem slt : Statement .slt := ⟨rfl, rfl⟩
theorem sgt : Statement .sgt := ⟨rfl, rfl⟩
theorem eq : Statement .eq := ⟨rfl, rfl⟩
theorem iszero : Statement .iszero := ⟨rfl, rfl⟩
theorem and : Statement .and := ⟨rfl, rfl⟩
theorem or : Statement .or := ⟨rfl, rfl⟩
theorem xor : Statement .xor := ⟨rfl, rfl⟩
theorem not : Statement .not := ⟨rfl, rfl⟩
theorem byte : Statement .byte := ⟨rfl, rfl⟩
theorem shl : Statement .shl := ⟨rfl, rfl⟩
theorem shr : Statement .shr := ⟨rfl, rfl⟩
theorem sar : Statement .sar := ⟨rfl, rfl⟩
theorem calldataload : Statement .calldataload := ⟨rfl, rfl⟩
theorem pop : Statement .pop := ⟨rfl, rfl⟩
theorem mload : Statement .mload := ⟨rfl, rfl⟩
theorem mstore : Statement .mstore := ⟨rfl, rfl⟩
theorem mstore8 : Statement .mstore8 := ⟨rfl, rfl⟩
theorem sload : Statement .sload := ⟨rfl, rfl⟩
theorem sstore : Statement .sstore := ⟨rfl, rfl⟩
theorem jump : Statement .jump := ⟨rfl, rfl⟩
theorem jumpi : Statement .jumpi := ⟨rfl, rfl⟩
theorem pc : Statement .pc := ⟨rfl, rfl⟩
theorem msize : Statement .msize := ⟨rfl, rfl⟩
theorem gas : Statement .gas := ⟨rfl, rfl⟩
theorem jumpdest : Statement .jumpdest := ⟨rfl, rfl⟩
theorem mcopy : Statement .mcopy := ⟨rfl, rfl⟩
theorem push0 : Statement .push0 := ⟨rfl, rfl⟩
theorem push1 (imm : Word) : Statement (.push1 imm) := of_pushParts _ 1 imm rfl rfl
theorem push2 (imm : Word) : Statement (.push2 imm) := of_pushParts _ 2 imm rfl rfl
theorem push3 (imm : Word) : Statement (.push3 imm) := of_pushParts _ 3 imm rfl rfl
theorem push4 (imm : Word) : Statement (.push4 imm) := of_pushParts _ 4 imm rfl rfl
theorem push5 (imm : Word) : Statement (.push5 imm) := of_pushParts _ 5 imm rfl rfl
theorem push6 (imm : Word) : Statement (.push6 imm) := of_pushParts _ 6 imm rfl rfl
theorem push7 (imm : Word) : Statement (.push7 imm) := of_pushParts _ 7 imm rfl rfl
theorem push8 (imm : Word) : Statement (.push8 imm) := of_pushParts _ 8 imm rfl rfl
theorem push9 (imm : Word) : Statement (.push9 imm) := of_pushParts _ 9 imm rfl rfl
theorem push10 (imm : Word) : Statement (.push10 imm) := of_pushParts _ 10 imm rfl rfl
theorem push11 (imm : Word) : Statement (.push11 imm) := of_pushParts _ 11 imm rfl rfl
theorem push12 (imm : Word) : Statement (.push12 imm) := of_pushParts _ 12 imm rfl rfl
theorem push13 (imm : Word) : Statement (.push13 imm) := of_pushParts _ 13 imm rfl rfl
theorem push14 (imm : Word) : Statement (.push14 imm) := of_pushParts _ 14 imm rfl rfl
theorem push15 (imm : Word) : Statement (.push15 imm) := of_pushParts _ 15 imm rfl rfl
theorem push16 (imm : Word) : Statement (.push16 imm) := of_pushParts _ 16 imm rfl rfl
theorem push17 (imm : Word) : Statement (.push17 imm) := of_pushParts _ 17 imm rfl rfl
theorem push18 (imm : Word) : Statement (.push18 imm) := of_pushParts _ 18 imm rfl rfl
theorem push19 (imm : Word) : Statement (.push19 imm) := of_pushParts _ 19 imm rfl rfl
theorem push20 (imm : Word) : Statement (.push20 imm) := of_pushParts _ 20 imm rfl rfl
theorem push21 (imm : Word) : Statement (.push21 imm) := of_pushParts _ 21 imm rfl rfl
theorem push22 (imm : Word) : Statement (.push22 imm) := of_pushParts _ 22 imm rfl rfl
theorem push23 (imm : Word) : Statement (.push23 imm) := of_pushParts _ 23 imm rfl rfl
theorem push24 (imm : Word) : Statement (.push24 imm) := of_pushParts _ 24 imm rfl rfl
theorem push25 (imm : Word) : Statement (.push25 imm) := of_pushParts _ 25 imm rfl rfl
theorem push26 (imm : Word) : Statement (.push26 imm) := of_pushParts _ 26 imm rfl rfl
theorem push27 (imm : Word) : Statement (.push27 imm) := of_pushParts _ 27 imm rfl rfl
theorem push28 (imm : Word) : Statement (.push28 imm) := of_pushParts _ 28 imm rfl rfl
theorem push29 (imm : Word) : Statement (.push29 imm) := of_pushParts _ 29 imm rfl rfl
theorem push30 (imm : Word) : Statement (.push30 imm) := of_pushParts _ 30 imm rfl rfl
theorem push31 (imm : Word) : Statement (.push31 imm) := of_pushParts _ 31 imm rfl rfl
theorem push32 (imm : Word) : Statement (.push32 imm) := of_pushParts _ 32 imm rfl rfl
theorem dup1 : Statement .dup1 := ⟨rfl, rfl⟩
theorem dup2 : Statement .dup2 := ⟨rfl, rfl⟩
theorem dup3 : Statement .dup3 := ⟨rfl, rfl⟩
theorem dup4 : Statement .dup4 := ⟨rfl, rfl⟩
theorem dup5 : Statement .dup5 := ⟨rfl, rfl⟩
theorem dup6 : Statement .dup6 := ⟨rfl, rfl⟩
theorem dup7 : Statement .dup7 := ⟨rfl, rfl⟩
theorem dup8 : Statement .dup8 := ⟨rfl, rfl⟩
theorem dup9 : Statement .dup9 := ⟨rfl, rfl⟩
theorem dup10 : Statement .dup10 := ⟨rfl, rfl⟩
theorem dup11 : Statement .dup11 := ⟨rfl, rfl⟩
theorem dup12 : Statement .dup12 := ⟨rfl, rfl⟩
theorem dup13 : Statement .dup13 := ⟨rfl, rfl⟩
theorem dup14 : Statement .dup14 := ⟨rfl, rfl⟩
theorem dup15 : Statement .dup15 := ⟨rfl, rfl⟩
theorem dup16 : Statement .dup16 := ⟨rfl, rfl⟩
theorem swap1 : Statement .swap1 := ⟨rfl, rfl⟩
theorem swap2 : Statement .swap2 := ⟨rfl, rfl⟩
theorem swap3 : Statement .swap3 := ⟨rfl, rfl⟩
theorem swap4 : Statement .swap4 := ⟨rfl, rfl⟩
theorem swap5 : Statement .swap5 := ⟨rfl, rfl⟩
theorem swap6 : Statement .swap6 := ⟨rfl, rfl⟩
theorem swap7 : Statement .swap7 := ⟨rfl, rfl⟩
theorem swap8 : Statement .swap8 := ⟨rfl, rfl⟩
theorem swap9 : Statement .swap9 := ⟨rfl, rfl⟩
theorem swap10 : Statement .swap10 := ⟨rfl, rfl⟩
theorem swap11 : Statement .swap11 := ⟨rfl, rfl⟩
theorem swap12 : Statement .swap12 := ⟨rfl, rfl⟩
theorem swap13 : Statement .swap13 := ⟨rfl, rfl⟩
theorem swap14 : Statement .swap14 := ⟨rfl, rfl⟩
theorem swap15 : Statement .swap15 := ⟨rfl, rfl⟩
theorem swap16 : Statement .swap16 := ⟨rfl, rfl⟩
theorem log0 : Statement .log0 := ⟨rfl, rfl⟩
theorem log1 : Statement .log1 := ⟨rfl, rfl⟩
theorem log2 : Statement .log2 := ⟨rfl, rfl⟩
theorem log3 : Statement .log3 := ⟨rfl, rfl⟩
theorem log4 : Statement .log4 := ⟨rfl, rfl⟩
theorem create : Statement .create := ⟨rfl, rfl⟩
theorem call : Statement .call := ⟨rfl, rfl⟩
theorem callcode : Statement .callcode := ⟨rfl, rfl⟩
theorem ret : Statement .ret := ⟨rfl, rfl⟩
theorem delegatecall : Statement .delegatecall := ⟨rfl, rfl⟩
theorem create2 : Statement .create2 := ⟨rfl, rfl⟩
theorem staticcall : Statement .staticcall := ⟨rfl, rfl⟩
theorem revert : Statement .revert := ⟨rfl, rfl⟩
theorem selfdestruct : Statement .selfdestruct := ⟨rfl, rfl⟩

end Sys2Proof.Laws.EncodedLength
end

