-- ==== Sys2Proof/Laws/Step.lean ====
section
/-! SUPPORT. What a step can do, said once (`StepCase`, `step_case`), with the lemmas about the sequencer it rests on. -/

namespace Sys2Proof.Machine

/-! The debit (spec/44_control.md R223). -/

@[simp] theorem conclude_next (s t : State) : conclude s (.next t) = .next (debitAfter s t) := rfl

/-- The debit writes the gas and nothing else. -/
theorem debitAfter_only (s t : State) : debitAfter s t = { t with gas := (debitAfter s t).gas } := by
  unfold debitAfter chargeGas
  split_ifs
  · split
    · split_ifs <;> rfl
    · rfl
  · rfl

/-- An error or a halt is not debited. -/
theorem debitAfter_halted (s t : State) (h : t.status ≠ .running) : debitAfter s t = t := by
  simp [debitAfter, h]

@[simp] theorem debitAfter_raise (s t : State) (e : ErrorKind) : debitAfter s (raise e t) = raise e t :=
  debitAfter_halted s _ (by simp)

theorem debitAfter_le (s t : State) : (debitAfter s t).gas.toNat ≤ t.gas.toNat := by
  unfold debitAfter chargeGas
  split_ifs
  · split
    · split_ifs
      · simp only [State.setGas_gas, BitVec.toNat_ofNat]
        exact le_trans (Nat.mod_le _ _) (Nat.sub_le _ _)
      · exact le_rfl
    · exact le_rfl
  · exact le_rfl

/-! The instruction fetched for a byte (spec/30_encoding.md R90, R95, R98). -/

/-- The category of a decoded instruction is that of its byte's row. -/
theorem decode_category (b : Byte) (tail rest : List Byte) (i : Instr) (h : decode (b :: tail) = .ok (i, rest)) :
    (opcodeRow b).bind inBlockCategory = inBlockCategory i := by
  rw [decode] at h
  rw [opcodeRow]
  by_cases hb : 0x60 ≤ b.toNat ∧ b.toNat ≤ 0x7F
  · rw [if_pos hb] at h ⊢
    rw [decodePush, show b.toNat - 0x5F - 1 = b.toNat - 0x60 by omega] at h
    split_ifs at h
    have hall : ∀ c ∈ pushConstructors, ∀ w, inBlockCategory (c w) = some .stackManip := by
      simp only [pushConstructors, List.forall_mem_cons]
      simp [inBlockCategory]
    cases hc : pushConstructors[b.toNat - 0x60]? with
    | none => rw [hc] at h; cases h
    | some c =>
      rw [hc] at h
      cases h
      simp only [Option.map_some, Option.bind_some]
      rw [hall c (List.mem_of_getElem? hc), hall c (List.mem_of_getElem? hc)]
  · rw [if_neg hb] at h ⊢
    cases hl : plainRows.lookup b with
    | none => rw [hl] at h; cases h
    | some j => rw [hl] at h; cases h; rfl

/-- An instruction fetched for an in-block byte is in-block. -/
theorem inBlock_of_classify {p : Params} {b : Byte} {cat : GasCategory} (hc : classify p b = .inBlock cat)
    {tail rest : List Byte} {i : Instr} (hd : decode (b :: tail) = .ok (i, rest)) : inBlockCategory i = some cat := by
  rw [← decode_category b tail rest i hd]
  have hrow : inBlockByte p b = some cat := by
    unfold classify at hc
    cases hb : inBlockByte p b with
    | some c => rw [hb] at hc; cases hc; rfl
    | none =>
      simp only [hb] at hc
      cases hx : p.extOpcodes.lookup b with
      | some c => simp only [hx] at hc; cases hc
      | none => simp only [hx] at hc; split_ifs at hc
  unfold inBlockByte at hrow
  split_ifs at hrow
  exact hrow

theorem drop_at_pc {s : State} {b : Byte} (hb : s.code[s.pc]? = some b) :
    s.code.drop s.pc = b :: s.code.drop (s.pc + 1) := by
  rw [List.getElem?_eq_some_iff] at hb
  obtain ⟨h, rfl⟩ := hb
  exact List.drop_eq_getElem_cons h

theorem opByte_at_pc {s : State} {b : Byte} (hb : s.code[s.pc]? = some b) : s.opByte = b := by
  rw [State.opByte, hb]; rfl

/-- An external instruction, performed from a running state, has a call's effect after at most one draw. -/
theorem exec_external (i : Instr) (s : State) (hi : inBlockCategory i = none) (hs : s.status = .running) :
    ∃ t, exec i s = .next t ∧ CallEffect s.drawn t := by
  have hu : ∀ b, CallEffect s.drawn (externalOp b s) := fun b => (unit_applyReply (Within.refl _) _).call
  cases i
  all_goals try (exact absurd hi (Option.some_ne_none _))
  all_goals first
    | exact ⟨_, rfl, hu _⟩
    | exact ⟨_, rfl, call_callOp _ s hs⟩

/-! A step. -/

/-- The opcode byte at a snapshot's program counter. -/
def Snapshot.opByte (n : Snapshot) : Byte := (n.code[n.pc]?).getD 0

/-- Every way a step can come to a next state. -/
inductive StepCase (s t : State) : Prop
  /-- The implicit halt at the end of the code. -/
  | halt : s.status = .running → s.code[s.pc]? = none → t = s.setStatus (.halted .success) → StepCase s t
  /-- A byte that is not external, counted: the error before its instruction, or the instruction; then the debit. -/
  | inBlock (u : State) (b : Byte) : s.status = .running → s.code[s.pc]? = some b →
      (∀ cat, classify s.params b ≠ .ext cat) → InBlockEffect s.counted u → t = debitAfter s.counted u → StepCase s t
  /-- An external byte, counted: OutOfGas before its instruction, or its unit's work; then the debit. -/
  | external (u s' : State) (b : Byte) (cat : GasCategory) : s.status = .running → s.code[s.pc]? = some b →
      classify s.params b = .ext cat → s' = { s.counted with draws := s'.draws } → s.draws ≤ s'.draws →
      CallEffect s' u → t = debitAfter s.counted u → StepCase s t
  /-- A halted inner frame: FRAME_EXIT, the end of the call opcode, its debit. -/
  | resume (h : Halt) (n : Snapshot) : s.status = .halted h → s.depth ≠ 0 → s.save.getLast? = some n →
      t = debitAfter (frameRestore n s) (finishCall n.opByte (decide (h = .success)) s (frameRestore n s)) →
      StepCase s t

/-- A step of a running state at a byte: what `dispatchByte` made of it, performed. -/
theorem step_case_byte {s t : State} {b : Byte} (hs : s.status = .running) (hb : s.code[s.pc]? = some b)
    (h : step s = .next t) : StepCase s t := by
  have hr := Within.refl s.counted
  have hcat := @inBlock_of_classify s.params b
  have hd := drop_at_pc hb
  unfold step turn runTurn at h
  simp only [hs, hb, dispatchByte, State.counted_params] at h
  match hc : classify s.params b with
  | .unassigned =>
    simp only [hc] at h
    cases h
    exact .inBlock _ b hs hb (by simp [hc]) (hr.raise (.invalidOpcode b) (by simp [ErrorKind.code])) (by simp)
  | .notImpl =>
    simp only [hc] at h
    cases h
    exact .inBlock _ b hs hb (by simp [hc]) (hr.raise (.notImplemented b) (by simp [ErrorKind.code])) (by simp)
  | .inBlock cat =>
    simp only [hc, gasCheck] at h
    by_cases hg : s.counted.gas.toNat < s.counted.cost cat
    · simp only [if_pos hg] at h
      cases h
      exact .inBlock _ b hs hb (by simp [hc]) (hr.raise .outOfGas (by decide)) (by simp)
    · simp only [if_neg hg, fetchInBlock, State.counted_code, State.counted_pc, hd] at h
      match hx : decode (b :: s.code.drop (s.pc + 1)) with
      | .error _ =>
        simp only [hx] at h
        cases h
        exact .inBlock _ b hs hb (by simp [hc]) (hr.raise .bytecodeBounds (by decide)) (by simp)
      | .ok (i, rest) =>
        simp only [hx] at h
        obtain ⟨u, h1, h2⟩ := exec_inBlock i s.counted (by rw [hcat hc hx]; simp)
        rw [h1, conclude_next] at h
        exact .inBlock u b hs hb (by simp [hc]) h2 (Host.Outcome.next.inj h).symm
  | .ext cat =>
    simp only [hc, gasCheck] at h
    by_cases hg : s.counted.gas.toNat < s.counted.cost cat
    · simp only [if_pos hg] at h
      cases h
      exact .external _ s.counted b cat hs hb hc rfl le_rfl (hr.unitFail .outOfGas).call (by simp)
    · simp only [if_neg hg, fetchExternal] at h
      match hx : externalRow b with
      | none =>
        simp only [hx, conclude_next] at h
        exact .external _ s.counted.drawn b cat hs hb hc rfl (Nat.le_succ _)
          (unit_applyReply (Within.refl _) _).call (Host.Outcome.next.inj h).symm
      | some i =>
        simp only [hx] at h
        have hi : inBlockCategory i = none := by
          simpa using (Option.filter_eq_some_iff.mp (show (opcodeRow b).filter _ = some i from hx)).2
        obtain ⟨u, h1, h2⟩ := exec_external i s.counted hi hs
        rw [h1, conclude_next] at h
        exact .external u s.counted.drawn b cat hs hb hc rfl (Nat.le_succ _) h2 (Host.Outcome.next.inj h).symm

/-- What a step can do. -/
theorem step_case {s t : State} (h : step s = .next t) : StepCase s t := by
  match hs : s.status with
  | .running =>
    match hb : s.code[s.pc]? with
    | some b => exact step_case_byte hs hb h
    | none =>
      simp only [step, turn, hs, runTurn, hb] at h
      exact .halt hs hb (Host.Outcome.next.inj h).symm
  | .halted x =>
    by_cases hd : s.depth = 0
    · simp [step, turn, hs, hd] at h
    · simp only [step, turn, hs, if_neg hd, resumeCaller, frameExit] at h
      match hl : s.save.getLast? with
      | none => simp [hl] at h
      | some n =>
        simp only [hl, Option.map_some] at h
        exact .resume x n hs hd hl (Host.Outcome.next.inj h).symm

end Sys2Proof.Machine
end

