-- ==== Sys2Proof/Tests/Slice0.lean ====
section
/-! SUPPORT. Tests: ill-formed terms, the spec's encodings written out, one step per test with the result taken from
spec/95_test_vectors.md (its section is named), and for every statement with hypotheses a witness that meets them. -/

namespace Sys2Proof.Tests

open Sys2Proof Sys2Proof.Machine Sys2Proof.Claims

/-! Helpers: small states. -/

/-- The reset state with a code and a stack. -/
def at0 (code : List Byte) (stack : List Word) : State := { State.reset with code := code, stack := stack }

/-- The stack an instruction leaves if it raises nothing. -/
def result (i : Instr) (stack : List Word) : Option (List Word) :=
  match exec i (at0 [] stack) with
  | .next t => if t.status = .running then some t.stack else none
  | .fault _ => none
  | .refused _ => none

/-- How an instruction leaves the state, where it halts with an error: the kind, the stack and the program counter. -/
def failure (i : Instr) (s : State) : Option (ErrorKind × List Word × Nat) :=
  match exec i s with
  | .next t =>
    match t.status with
    | .halted (.error e) => some (e, t.stack, t.pc)
    | .halted .success => none
    | .running => none
  | .fault _ => none
  | .refused _ => none

/-- The next state of a step; the reset state where there is none. -/
def after (s : State) : State :=
  match step s with
  | .next t => t
  | .fault _ => State.reset
  | .refused _ => State.reset

/-- The Word -n. -/
def neg (n : Nat) : Word := BitVec.ofInt 256 (-(n : Int))

/-- The Word 2^255. -/
def minWord : Word := BitVec.ofNat 256 (2 ^ 255)

/-! WellFormed: an immediate its field cannot hold is refused (spec/30_encoding.md R92). -/

theorem test_push1_ill_formed : (Instr.push1 256).wellFormed = false := by decide
theorem test_push1_well_formed : (Instr.push1 255).wellFormed = true := by decide
theorem test_push31_ill_formed : (Instr.push31 (BitVec.ofNat 256 (256 ^ 31))).wellFormed = false := by decide
theorem test_push32_well_formed : (Instr.push32 (neg 1)).wellFormed = true := by decide

/-! Decode: words written out from the encodings of spec/30_encoding.md R91, R92, R95, R98, one family each. -/

/-- SIGNEXTEND, 0x0B = 0000 1011. -/
theorem test_decode_arith : decode [0b00001011#8] = .ok (.signextend, []) := by decide
/-- SAR, 0x1D = 0001 1101. -/
theorem test_decode_compare : decode [0b00011101#8] = .ok (.sar, []) := by decide
/-- PUSH2 0x0102: 0x61 = 0110 0001, then the most significant byte first. -/
theorem test_decode_push2 : decode [0b01100001#8, 0b00000001#8, 0b00000010#8] = .ok (.push2 0x0102, []) := by decide
/-- PUSH32 and its 32 bytes, all ones. -/
theorem test_decode_push32 : decode (0b01111111#8 :: List.replicate 32 0xFF) = .ok (.push32 (neg 1), []) := by decide
/-- DUP16 is 0x8F, SWAP1 is 0x90: neighbours in the table. -/
theorem test_decode_dup_swap : decode [0b10001111#8, 0b10010000#8] = .ok (.dup16, [0x90]) ∧
    decode [0b10010000#8] = .ok (.swap1, []) := by decide
/-- MCOPY, 0x5E = 0101 1110. -/
theorem test_decode_memory : decode [0b01011110#8] = .ok (.mcopy, []) := by decide
/-- REVERT, 0xFD = 1111 1101. -/
theorem test_decode_control : decode [0b11111101#8] = .ok (.revert, []) := by decide
/-- STATICCALL, 0xFA = 1111 1010. -/
theorem test_decode_external : decode [0b11111010#8] = .ok (.staticcall, []) := by decide
/-- 0x0C and 0xFE are in no row; 0x5C and 0x5D are not MCOPY's neighbours. -/
theorem test_decode_gaps : decode [0x0C] = .error (.notInTable 0x0C) ∧ decode [0xFE] = .error (.notInTable 0xFE) ∧
    decode [0x5C] = .error (.notInTable 0x5C) ∧ decode [0x5D] = .error (.notInTable 0x5D) := by decide
/-- A PUSH2 with one byte after it (R93). -/
theorem test_decode_truncated : decode [0x61, 0x01] = .error (.truncatedPush 0x61) := by decide
/-- The table's numbering of bits: the second byte is bits 15 to 8. -/
theorem test_table_word : decodeTableWord 16 0x2A60 = some (.push1 0x2A) := by decide
/-- An instruction given by the table's bits is what the very next step after reset runs. -/
theorem test_first_instruction : (after (State.reset.withFetchWord 8 0x59)).stack = [0] ∧
    (after (State.reset.withFetchWord 16 0x2A60)).stack = [0x2A] := by decide

/-! One instruction each, from the tables L2-A and L2-B of spec/95_test_vectors.md. -/

theorem test_add_wraps : result .add [neg 1, 1] = some [0] := by decide
theorem test_mul_wraps : result .mul [minWord, 2] = some [0] := by decide
theorem test_mul_low_half : result .mul [neg 1, neg 1] = some [1] := by decide
theorem test_sub_top_is_minuend : result .sub [0, 7] = some [neg 7] := by decide
theorem test_div : result .div [7, 2] = some [3] := by decide
theorem test_div_by_zero : result .div [7, 0] = some [0] := by decide
theorem test_sdiv_toward_zero : result .sdiv [neg 7, 2] = some [neg 3] := by decide
theorem test_sdiv_overflow : result .sdiv [minWord, neg 1] = some [minWord] := by decide
theorem test_mod : result .mod [7, 3] = some [1] := by decide
theorem test_mod_zero : result .mod [7, 0] = some [0] := by decide
theorem test_smod_dividend_sign : result .smod [neg 7, 3] = some [neg 1] := by decide
theorem test_smod_divisor_sign : result .smod [7, neg 3] = some [1] := by decide
theorem test_addmod_exact_sum : result .addmod [neg 1, 2, 3] = some [2] := by decide
theorem test_addmod_zero : result .addmod [1, 2, 0] = some [0] := by decide
theorem test_mulmod_exact_product : result .mulmod [neg 1, neg 1, 12] = some [9] := by decide
theorem test_mulmod_zero : result .mulmod [3, 4, 0] = some [0] := by decide
theorem test_exp : result .exp [3, 3] = some [27] := by decide
theorem test_exp_zero_zero : result .exp [0, 0] = some [1] := by decide
theorem test_signextend : result .signextend [0, 0x12345680] = some [neg 128] := by decide
theorem test_signextend_index_30 : result .signextend [30, BitVec.ofNat 256 (2 ^ 247)] = some [BitVec.ofNat 256 (2 ^ 256 - 2 ^ 247)] := by decide
theorem test_lt_unsigned : result .lt [neg 1, 0] = some [0] := by decide
theorem test_lt : result .lt [1, 2] = some [1] := by decide
theorem test_gt : result .gt [2, 1] = some [1] := by decide
theorem test_slt_signed : result .slt [neg 1, 0] = some [1] := by decide
theorem test_slt_extremes : result .slt [minWord, BitVec.ofNat 256 (2 ^ 255 - 1)] = some [1] := by decide
theorem test_sgt_signed : result .sgt [0, neg 1] = some [1] := by decide
theorem test_sgt_min : result .sgt [minWord, 0] = some [0] := by decide
theorem test_eq : result .eq [5, 5] = some [1] := by decide
theorem test_eq_not : result .eq [5, 6] = some [0] := by decide
theorem test_iszero : result .iszero [0] = some [1] := by decide
theorem test_iszero_not : result .iszero [5] = some [0] := by decide
theorem test_and : result .and [0xF0, 0x3C] = some [0x30] := by decide
theorem test_or : result .or [0xF0, 0x0F] = some [0xFF] := by decide
theorem test_xor : result .xor [0xFF, 0x0F] = some [0xF0] := by decide
theorem test_not : result .not [1] = some [neg 2] := by decide
theorem test_byte_least_significant : result .byte [31, 0x1234] = some [0x34] := by decide
theorem test_byte_index_32 : result .byte [32, neg 1] = some [0] := by decide
theorem test_shl_bit_lost : result .shl [255, 3] = some [minWord] := by decide
theorem test_shl_256 : result .shl [256, 1] = some [0] := by decide
theorem test_shr_logical : result .shr [1, neg 7] = some [BitVec.ofNat 256 (2 ^ 255 - 4)] := by decide
theorem test_shr_256 : result .shr [256, neg 1] = some [0] := by decide
theorem test_sar_toward_minus_infinity : result .sar [1, neg 7] = some [neg 4] := by decide
theorem test_sar_300 : result .sar [300, 5] = some [0] := by decide
/-- L2-A, the error table. -/
theorem test_alu_underflow : failure .add (at0 [] [5]) = some (.stackUnderflow, [], 0) := by decide
theorem test_alu3_underflow : failure .addmod (at0 [] [2, 1]) = some (.stackUnderflow, [], 0) := by decide

/-! The stack, from the table L2-C. -/

theorem test_pop : result .pop [5, 7] = some [7] := by decide
theorem test_pop_empty : failure .pop (at0 [0x50] []) = some (.stackUnderflow, [], 0) := by decide
theorem test_push2 : (after (at0 [0x61, 0x01, 0x02] [])).stack = [0x0102] ∧ (after (at0 [0x61, 0x01, 0x02] [])).pc = 3 := by
  decide
theorem test_push_last_byte : (after (at0 [0x60, 0x01] [])).stack = [1] ∧ (after (at0 [0x60, 0x01] [])).pc = 2 := by decide
theorem test_push_truncated : (after (at0 [0x61, 0x01] [])).status = .halted (.error .bytecodeBounds) ∧
    (after (at0 [0x61, 0x01] [])).pc = 0 ∧ (after (at0 [0x61, 0x01] [])).count = 1 := by decide
theorem test_push_exec_bounds : failure (.push2 0x0100) (at0 [0x61, 0x01] []) = some (.bytecodeBounds, [], 0) := by decide
theorem test_push0_unassigned :
    (after { at0 [0x5F] [] with params := { Params.atReset with push0Mode := .unassigned } }).status =
      .halted (.error (.invalidOpcode 0x5F)) := by decide
theorem test_push0 : (after (at0 [0x5F] [])).stack = [0] := by decide
theorem test_dup2 : result .dup2 [1, 2, 3] = some [2, 1, 2, 3] := by decide
theorem test_dup1 : result .dup1 [9] = some [9, 9] := by decide
theorem test_dup16_shallow : failure .dup16 (at0 [] (List.replicate 15 4)) =
    some (.stackUnderflow, List.replicate 15 4, 0) := by decide
theorem test_dup_too_deep :
    failure .dup2 { at0 [] [1] with params := { Params.atReset with dupSwapError := .stackTooDeep } } =
      some (.stackTooDeep, [1], 0) := by decide
theorem test_swap2 : result .swap2 [1, 2, 3] = some [3, 2, 1] := by decide
theorem test_swap1 : result .swap1 [1, 2] = some [2, 1] := by decide
theorem test_swap1_shallow : failure .swap1 (at0 [] [1]) = some (.stackUnderflow, [1], 0) := by decide
theorem test_swap16_shallow : failure .swap16 (at0 [] (List.replicate 16 4)) =
    some (.stackUnderflow, List.replicate 16 4, 0) := by decide

/-! Memory, from the table L2-D and the worked examples L1-5 and L1-6. -/

/-- The memory an instruction leaves. -/
def memoryAfter (i : Instr) (s : State) : Memory :=
  match exec i s with
  | .next t => t.mem
  | .fault _ => ⟨0, []⟩
  | .refused _ => ⟨0, []⟩

theorem test_mload_grows : memoryAfter .mload (at0 [] [1]) = ⟨64, []⟩ ∧ result .mload [1] = some [0] := by decide
theorem test_mstore : memoryAfter .mstore (at0 [] [0, 0x0102]) = ⟨32, [(30, 0x01), (31, 0x02)]⟩ := by decide
theorem test_mstore_big_endian : memoryAfter .mstore (at0 [] [1, neg 1 - 0xFF]) =
    ⟨64, (List.range 31).map fun k => (k + 1, 0xFF)⟩ := by decide
theorem test_mstore8 : memoryAfter .mstore8 (at0 [] [0x40, 0x12FF]) = ⟨96, [(0x40, 0xFF)]⟩ := by decide
theorem test_mstore8_zero_removes : memoryAfter .mstore8 { at0 [] [0x40, 0x1200] with mem := ⟨96, [(0x40, 0xFF)]⟩ } =
    ⟨96, []⟩ := by decide
theorem test_msize : result .msize [] = some [0] := by decide
theorem test_mload_past_limit :
    failure .mload { at0 [] [0x3E1] with params := { Params.atReset with memLimit := 1024 } } =
      some (.outOfGas, [], 0) := by decide
theorem test_mstore_no_wrap : failure .mstore (at0 [] [neg 1, 0]) = some (.outOfGas, [], 0) := by decide
/-- L1-6, a forward overlap. -/
theorem test_mcopy_overlap :
    (memoryAfter .mcopy { at0 [] [2, 0, 6] with mem := ⟨32, [(0, 1), (1, 2), (2, 3), (3, 4), (4, 5), (5, 6), (6, 7), (7, 8)]⟩ }).readBytes
      0 8 = [1, 2, 1, 2, 3, 4, 5, 6] := by decide
theorem test_mcopy_one_growth : memoryAfter .mcopy (at0 [] [0, 0x40, 1]) = ⟨96, []⟩ ∧
    memoryAfter .mcopy (at0 [] [0xFFFF, 0xFFFF, 0]) = ⟨0, []⟩ := by decide

/-! Control, from the table L2-E. -/

theorem test_jump : (after { at0 [0x60, 0x03, 0x56, 0x5B, 0x00] [3] with pc := 2 }).pc = 3 := by decide
theorem test_jump_not_dest : failure .jump { at0 [0x60, 0x02, 0x56] [2] with pc := 2 } =
    some (.invalidJumpDestination, [], 2) := by decide
theorem test_jump_into_push_data : failure .jump { at0 [0x60, 0x5B, 0x56] [1] with pc := 2 } =
    some (.invalidJumpDestination, [], 2) := by decide
theorem test_jump_raw_byte :
    (after { at0 [0x60, 0x5B, 0x56] [1] with
      pc := 2, params := { Params.atReset with jumpdestAnalysis := .rawByte } }).pc = 1 := by decide
theorem test_jumpi_not_taken : (after { at0 [0x60, 0x00, 0x60, 0xFF, 0x57, 0x00] [0xFF, 0] with pc := 4 }).pc = 5 := by
  decide
theorem test_jumpi_taken : failure .jumpi { at0 [0x60, 0x01, 0x60, 0xFF, 0x57, 0x00] [0xFF, 1] with pc := 4 } =
    some (.invalidJumpDestination, [], 4) := by decide
theorem test_pc : (after { at0 [0x60, 0x00, 0x58] [0] with pc := 2 }).stack = [2, 0] := by decide
theorem test_gas : (after (at0 [0x5A, 0x00] [])).stack = [1000] := by decide
theorem test_gas_before_debit :
    (after { at0 [0x5A] [] with
      params := { Params.atReset with gasCost := .all 3, gasDebit := .all true }, gas := 10 }).stack = [10] ∧
    (after { at0 [0x5A] [] with
      params := { Params.atReset with gasCost := .all 3, gasDebit := .all true }, gas := 10 }).gas = 7 := by decide
theorem test_out_of_gas : (after { at0 [0x01] [] with gas := 0 }).status = .halted (.error .outOfGas) ∧
    (after { at0 [0x01] [] with gas := 0 }).count = 1 := by decide
theorem test_stop : (after (at0 [0x00, 0x01] [])).pc = 2 ∧ (after (at0 [0x00, 0x01] [])).count = 1 := by decide
theorem test_stop_clears :
    (after { at0 [0x00] [] with
      returndata := [1], params := { Params.atReset with stopClearsReturndata := true } }).returndata = [] := by decide
theorem test_jumpdest : (after (at0 [0x5B, 0x00] [])).pc = 1 := by decide
/-- The last step of program P6. -/
theorem test_return : (after { at0 [0xF3] [0, 32] with mem := ⟨32, [(31, 0x2A)]⟩ }).returndata =
    List.replicate 31 0 ++ [0x2A] := by decide
theorem test_return_empty : (after (at0 [0xF3] [neg 1, 0])).returndata = [] ∧
    (after (at0 [0xF3] [neg 1, 0])).mem = ⟨0, []⟩ := by decide
theorem test_revert_without_data : failure .revert (at0 [] [0, 0]) = some (.revertWithoutData, [], 0) := by decide
/-- The last step of program P7. -/
theorem test_revert_with_data : failure .revert { at0 [] [30, 2] with mem := ⟨32, [(30, 0xBE), (31, 0xEF)]⟩ } =
    some (.revertWithData [0xBE, 0xEF], [], 0) := by decide
theorem test_invalid_opcode : (after { at0 [0x60, 0x01, 0xFE, 0x00] [1] with pc := 2, count := 1 }).report =
    some { pc := 2, op := 0xFE, err := .invalidOpcode 0xFE, count := 2 } := by decide
theorem test_not_implemented :
    (after { at0 [0x0C] [] with params := { Params.atReset with notImplOpcodes := [0x0C] } }).status =
      .halted (.error (.notImplemented 0x0C)) := by decide
theorem test_implicit_halt : (after State.reset).status = .halted .success ∧ (after State.reset).count = 0 := by decide

/-! Frames, from L2-F1 to L2-F5. -/

theorem test_classes :
    let p := { Params.atReset with
      extOpcodes := [(0x35, .environment), (0xF1, .callCreate)], notImplOpcodes := [0x20], push0Mode := .unassigned }
    classify p 0x01 = .inBlock .arithCompare ∧ classify p 0x35 = .ext .environment ∧ classify p 0x20 = .notImpl ∧
      classify p 0x5F = .unassigned ∧ classify p 0xFE = .unassigned ∧ classify p 0x7F = .inBlock .stackManip := by decide

/-- The caller's frame below an inner frame: a CALL at 0, three entries left on its stack. -/
def callerFrame : Snapshot where
  caller := 1
  callvalue := 2
  address := 3
  calldata := [4]
  returndata := []
  mem := ⟨64, [(5, 6)]⟩
  stack := [7, 8, 9]
  pc := 0
  code := [0xF1, 0x00]

/-- An inner frame at depth 1, running, above callerFrame. -/
def innerFrame (code : List Byte) (stack : List Word) : State :=
  { at0 code stack with depth := 1, save := [callerFrame], count := 4, returndata := [0xAA] }

/-- L2-F2's end: the halted inner frame's step returns to the caller with the flag 1. -/
theorem test_frame_exit :
    let t := after { innerFrame [] [] with status := .halted .success }
    t.stack = [1, 7, 8, 9] ∧ t.mem = ⟨64, [(5, 6)]⟩ ∧ t.pc = 1 ∧ t.depth = 0 ∧ t.save = [] ∧ t.returndata = [0xAA] ∧
      t.caller = 1 ∧ t.address = 3 ∧ t.status = .running := by decide

/-- L2-F3's end: a failed inner frame gives the flag 0. -/
theorem test_frame_exit_failed :
    (after { innerFrame [0x50] [] with status := .halted (.error .stackUnderflow) }).stack = [0, 7, 8, 9] := by decide

/-- A frame on a code, asked for after one operand, with no memory touched. -/
def plainFrame (code : Option (List Byte)) : CallFrame where
  moreOperands := 0
  grown := []
  env := ⟨9, 6, 3⟩
  inOff := 0
  inSize := 0
  code := code

/-- L2-F4: at the depth limit a call receives the flag 0 and goes on. -/
theorem test_depth_limit :
    let s := { at0 [0xF1] [8, 7] with depth := 2, params := { Params.atReset with maxCallDepth := some 2 } }
    let t := applyCall 0xF1 (.frame (plainFrame (some []))) s
    t.stack = [0, 7] ∧ t.pc = 1 ∧ t.save = [] := by decide

/-- L2-F5: a target without code gives NOCODE_OK and empty returndata. -/
theorem test_codeless_target :
    let s := { at0 [0xF1] [8, 7] with returndata := [1] }
    let t := applyCall 0xF1 (.frame (plainFrame none)) s
    t.stack = [1, 7] ∧ t.pc = 1 ∧ t.returndata = [] ∧ t.depth = 0 := by decide

/-- FRAME_ENTER for a CALL: the caller is the current address, the stack and memory are fresh, the snapshot is taken after the
pop. -/
theorem test_frame_enter :
    let s := { at0 [0xF1] [7, 8] with address := 5 }
    let t := applyCall 0xF1 (.frame (plainFrame (some [0x00]))) s
    t.stack = [] ∧ t.pc = 0 ∧ t.code = [0x00] ∧ t.depth = 1 ∧ t.caller = 5 ∧ t.address = 6 ∧ t.callvalue = 3 ∧
      t.save.map Snapshot.stack = [[8]] := by decide

/-! Witnesses: for each statement with hypotheses, a state and operands that meet them, one for each clause. -/

/-- The reset state with parameters of one's own. -/
def withParams (p : Params) (s : State) : State := { s with params := p }

/-- A full stack. -/
def full : List Word := List.replicate 1024 0

theorem full_length : full.length = 1024 := List.length_replicate ..

/-! Encoding. -/

theorem witness_DecodeOfEncode : (Instr.push1 255).wellFormed = true ∧ (Instr.push32 (neg 1)).wellFormed = true ∧
    Instr.selfdestruct.wellFormed = true := by decide

theorem witness_EncodeOfDecode : decode [0x61, 0x01, 0x02, 0x09] = .ok (.push2 0x0102, [0x09]) ∧
    decode [0xFF] = .ok (.selfdestruct, []) := by decide

theorem witness_PushImmediateIsBigEndian : (1 ≤ 1 ∧ 1 ≤ 32 ∧ [(0xFF : Byte)].length = 1) ∧
    (1 ≤ 32 ∧ 32 ≤ 32 ∧ (List.replicate 32 (0xFF : Byte)).length = 32) := by decide

theorem witness_LengthFromOpcodeByte : decode [0x5F, 0x01] = .ok (.push0, [0x01]) ∧
    decode [0x60, 0x01] = .ok (.push1 1, []) ∧
    decode (0x7F :: List.replicate 32 0x00) = .ok (.push32 0, []) ∧ decode [0x80] = .ok (.dup1, []) := by decide

/-! The sequencer. -/

theorem witness_UnmappedByteRaisesItsError :
    (State.reset.status = .running ∧ (at0 [0x0C] []).code[0]? = some 0x0C ∧
      r95Category .pushZero (0x0C : Byte).toNat = none ∧ Params.atReset.extOpcodes.lookup 0x0C = none ∧
      (0x0C : Byte) ∉ Params.atReset.notImplOpcodes) ∧
    (let p := { Params.atReset with notImplOpcodes := [0xFE] }
     r95Category p.push0Mode (0xFE : Byte).toNat = none ∧ p.extOpcodes.lookup 0xFE = none ∧
      (0xFE : Byte) ∈ p.notImplOpcodes) := by decide

/-- An in-block byte, an external byte of the table, at exactly the gas of the cost. -/
theorem witness_StepRunsDecodedInstruction :
    (let s := { at0 [0x01] [] with gas := 1 }
     s.status = .running ∧ s.code[s.pc]? = some 0x01 ∧ s.params.gasCost.at .arithCompare ≤ s.gas.toNat ∧
      classify s.params 0x01 = .inBlock .arithCompare ∧ decode (s.code.drop s.pc) = .ok (.add, [])) ∧
    (let s := { at0 [0xFF] [] with gas := 1 }
     s.status = .running ∧ s.code[s.pc]? = some 0xFF ∧ s.params.gasCost.at .callCreate ≤ s.gas.toNat ∧
      classify s.params 0xFF = .ext .callCreate ∧ decode (s.code.drop s.pc) = .ok (.selfdestruct, []) ∧
      (.selfdestruct, 0xFF) ∈ plainExternals ++ calls ++ creates) := by decide

/-- An external byte outside the table. -/
theorem witness_StepRunsDecodedInstruction_byte :
    (let s := withParams { Params.atReset with extOpcodes := [(0x30, .environment)] } (at0 [0x30] [])
     s.status = .running ∧ s.code[s.pc]? = some 0x30 ∧ s.params.gasCost.at .environment ≤ s.gas.toNat ∧
      classify s.params 0x30 = .ext .environment) ∧
    ∀ i, (i, (0x30 : Byte)) ∉ plainExternals ++ calls ++ creates := by
  refine ⟨by decide, fun i h => ?_⟩
  have hb : (0x30 : Byte) ∈ (plainExternals ++ calls ++ creates).map Prod.snd := List.mem_map_of_mem (f := Prod.snd) h
  exact absurd hb (by decide)

theorem witness_ImplicitHaltAtEndOfCode :
    (State.reset.status = .running ∧ State.reset.code.length ≤ State.reset.pc) ∧
    (∃ t, exec .stop (at0 [0x00] []) = .next t) ∧
    (∃ t, exec .ret (at0 [0xF3] [0, 0]) = .next t ∧ t.status = .running) := by
  refine ⟨by decide, ⟨_, rfl⟩, ⟨_, rfl, by decide⟩⟩

/-- Gas one below the cost, and gas equal to it. -/
theorem witness_GasCheckBeforeInstruction :
    (let s := { at0 [0x01] [] with gas := 0 }
     s.status = .running ∧ s.code[s.pc]? = some 0x01 ∧ classify s.params 0x01 = .inBlock .arithCompare ∧
      s.gas.toNat < s.params.gasCost.at .arithCompare) ∧
    (let s := { at0 [0x54] [] with gas := 0 }
     classify s.params 0x54 = .ext .storage ∧ s.gas.toNat < s.params.gasCost.at .storage) ∧
    (let s := { at0 [0x01] [] with gas := 1 }
     s.params.gasCost.at .arithCompare ≤ s.gas.toNat ∧ decode (s.code.drop s.pc) = .ok (.add, [])) := by decide

/-- JUMPDEST with the debit on: a success. -/
theorem witness_GasDebitAfterSuccess :
    let s := withParams { Params.atReset with gasDebit := .all true } (at0 [0x5B] [])
    (s.status = .running ∧ s.code[s.pc]? = some 0x5B ∧ classify s.params 0x5B = .inBlock .controlFlow ∧
      s.params.gasCost.at .controlFlow ≤ s.gas.toNat ∧ decode (s.code.drop s.pc) = .ok (.jumpdest, [])) ∧
    ∃ u t, exec .jumpdest s.counted = .next u ∧ step s = .next t ∧ u.status = .running ∧ t.gas = 999 :=
  ⟨by decide, _, _, rfl, rfl, by decide, by decide⟩

/-- POP of an empty stack: an error; and a machine with no debit. -/
theorem witness_GasDebitAfterSuccess_error :
    let s := at0 [0x50] []
    (s.status = .running ∧ s.code[s.pc]? = some 0x50 ∧ classify s.params 0x50 = .inBlock .stackManip ∧
      s.params.gasCost.at .stackManip ≤ s.gas.toNat ∧ decode (s.code.drop s.pc) = .ok (.pop, [])) ∧
    (∃ u t, exec .pop s.counted = .next u ∧ step s = .next t ∧ u.status ≠ .running) ∧
    (∀ cat, s.params.gasDebit.at cat = false) :=
  ⟨by decide, ⟨_, _, rfl, rfl, by decide⟩, fun cat => by cases cat <;> rfl⟩

/-- An external byte outside the table, at exactly the gas of the cost. -/
theorem witness_GasDebitAfterSuccess_byte :
    let s := { withParams { Params.atReset with extOpcodes := [(0x20, .environment)] } (at0 [0x20] []) with gas := 1 }
    s.status = .running ∧ s.code[s.pc]? = some 0x20 ∧ classify s.params 0x20 = .ext .environment ∧
      (∀ i, (i, 0x20) ∉ plainExternals ++ calls ++ creates) ∧ s.params.gasCost.at .environment ≤ s.gas.toNat ∧
      ∃ u t, externalOp 0x20 s.counted = u ∧ step s = .next t := by
  refine ⟨by decide, by decide, by decide, fun i => ?_, by decide, _, _, rfl, rfl⟩
  simp [plainExternals, calls, creates]

/-- The OutOfGas clause of every statement about one instruction: any byte, any category. -/
theorem witness_OutOfGasFirst (op : Byte) (cat : GasCategory) : ∃ s : State, s.status = .running ∧
    s.code[s.pc]? = some op ∧ s.gas.toNat < s.params.gasCost.at cat :=
  ⟨{ at0 [op] [] with gas := 0 }, rfl, rfl, by cases cat <;> exact Nat.zero_lt_one⟩

/-! The ALU: the shapes of the three rules, and the operands where their cases meet. -/

/-- Two and three operands on a full stack, an empty stack, and one operand too few. -/
theorem witness_AluRules :
    (full = 0 :: 0 :: 0 :: List.replicate 1021 0 ∧ full.length ≤ 1024) ∧
    (at0 [] []).stack = [] ∧ (at0 [] [5]).stack.length < 2 ∧ (at0 [] [5, 6]).stack.length < 3 := by
  refine ⟨⟨rfl, full_length.le⟩, by decide⟩

/-- UnsignedDivMod, SignedDivMod, ExactModularArithmetic: a divisor of 0 and the smallest other one. -/
theorem witness_divisors : (0 : Word) = 0 ∧ (1 : Word) ≠ 0 := by decide

/-- SignextendCopiesSignBit, ByteAndShifts: the last index of the one case and the first of the other. -/
theorem witness_indices : (30 : Word).toNat < 31 ∧ 31 ≤ (31 : Word).toNat ∧ (31 : Word).toNat < 32 ∧ 32 ≤ (32 : Word).toNat ∧
    (255 : Word).toNat < 256 ∧ 256 ≤ (256 : Word).toNat := by decide

/-! The stack. -/

theorem witness_PopDiscardsTop : (at0 [] [5, 7]).stack = [5, 7] ∧ (at0 [] []).stack = [] := by decide

theorem witness_Push0PushesZero : (at0 [] [7]).stack.length < 1024 ∧ (at0 [] full).stack.length = 1024 ∧
    (let s := { at0 [0x5F] [] with gas := 0 }
     s.params.push0Mode = .pushZero ∧ s.status = .running ∧ s.code[s.pc]? = some 0x5F ∧
      s.gas.toNat < s.params.gasCost.stackManip) := by
  refine ⟨by decide, full_length, by decide⟩

/-- PUSH2: its last immediate byte the last of the code, and one byte too few, on a full stack too. -/
theorem witness_PushPushesImmediate : (Instr.push2 0x0102).pushParts = some (2, 0x0102) ∧
    ((at0 [0x61, 1, 2] []).pc + 2 < (at0 [0x61, 1, 2] []).code.length ∧ (at0 [0x61, 1, 2] []).stack.length < 1024) ∧
    ((at0 [0x61, 1] []).pc + 2 ≥ (at0 [0x61, 1] []).code.length ∧ (at0 [0x61, 1] []).status = .running ∧
      (at0 [0x61, 1] []).code[0]? = some (Instr.push2 0x0102).opcode ∧
      (at0 [0x61, 1] []).params.gasCost.stackManip ≤ (at0 [0x61, 1] []).gas.toNat) ∧
    (at0 [0x61, 1, 2] full).stack.length = 1024 := by
  refine ⟨by decide, by decide, by decide, full_length⟩

/-- DUP2 and DUP16: the nth entry there, one entry too few, and a full stack. -/
theorem witness_DupCopiesNth : (2, Instr.dup2) ∈ dups ∧ (at0 [] [5, 6]).stack[2 - 1]? = some 6 ∧
    (at0 [] [5, 6]).stack.length < 1024 ∧ (16, Instr.dup16) ∈ dups ∧
    (at0 [] (List.replicate 15 4)).stack.length < 16 ∧ (at0 [] full).stack.length = 1024 := by
  refine ⟨by decide, by decide, by decide, by decide, by decide, full_length⟩

/-- SWAP2 with the entry S[2] the last one, and with one entry too few. -/
theorem witness_SwapExchangesNth : (2, Instr.swap2) ∈ swaps ∧
    ((at0 [] [5, 6, 7]).stack[0]? = some 5 ∧ (at0 [] [5, 6, 7]).stack[2]? = some 7) ∧
    (at0 [] [5, 6]).stack.length ≤ 2 := by decide

/-- Pushes that just fill the stack; an empty and a full one. -/
theorem witness_StackIsLastInFirstOut : (at0 [] []).stack.length + full.length ≤ 1024 ∧ (at0 [] []).stack = [] ∧
    (at0 [] full).stack.length = 1024 := by
  refine ⟨by rw [full_length]; exact le_rfl, by decide, full_length⟩

/-! Memory. -/

/-- A memory of two words with one byte written. -/
def someMemory : Memory := ⟨64, [(33, 0xAB)]⟩

/-- A range that ends at the limit, and one that ends one byte past it. -/
theorem witness_MemExtendGrowsZeroFilled :
    (let s := { withParams { Params.atReset with memLimit := 1024 } (at0 [] []) with mem := someMemory }
     s.mem.wf = true ∧ 992 + 32 ≤ s.params.memLimit ∧ 993 + 32 > s.params.memLimit ∧ 32 > 0) := by decide

theorem witness_MemWriteThenRead :
    (let s := { withParams { Params.atReset with memLimit := 1024 } (at0 [] []) with mem := someMemory }
     s.mem.wf = true ∧ [(0x11 : Byte), 0x00] ≠ [] ∧ 1022 + [(0x11 : Byte), 0x00].length ≤ s.params.memLimit) := by decide

/-- MLOAD: at the limit, one past it, an empty stack. -/
theorem witness_MloadReadsBigEndian :
    (let s := withParams { Params.atReset with memLimit := 1024 } (at0 [] [992, 5])
     s.stack = [992, 5] ∧ s.stack.length ≤ 1024 ∧ (992 : Word).toNat + 32 ≤ s.params.memLimit ∧
      (993 : Word).toNat + 32 > s.params.memLimit) ∧ (at0 [] []).stack = [] := by decide

/-- MSTORE: at the limit, one past it, one operand too few. -/
theorem witness_MstoreWritesBigEndian :
    (let s := { withParams { Params.atReset with memLimit := 1024 } (at0 [] [992, 5]) with mem := someMemory }
     s.stack = 992 :: 5 :: [] ∧ s.mem.wf = true ∧ (992 : Word).toNat + 32 ≤ s.params.memLimit ∧
      (993 : Word).toNat + 32 > s.params.memLimit) ∧ (at0 [] [5]).stack.length < 2 := by decide

/-- MSTORE8: the last byte below the limit, the first past it, one operand too few. -/
theorem witness_Mstore8WritesLowByte :
    (let s := { withParams { Params.atReset with memLimit := 1024 } (at0 [] [1023, 5]) with mem := someMemory }
     s.stack = 1023 :: 5 :: [] ∧ s.mem.wf = true ∧ (1023 : Word).toNat + 1 ≤ s.params.memLimit ∧
      (1024 : Word).toNat + 1 > s.params.memLimit) ∧ (at0 [] [5]).stack.length < 2 := by decide

/-- MCOPY: overlapping ranges that end at the limit, a length of 0 past it, a range one byte past it. -/
theorem witness_McopyIsCopyThroughTemporary :
    (let s := { withParams { Params.atReset with memLimit := 1024 } (at0 [] [1018, 1016, 6]) with mem := someMemory }
     s.stack = 1018 :: 1016 :: 6 :: [] ∧ s.mem.wf = true ∧ Fits s (max (1018 : Word).toNat (1016 : Word).toNat) (6 : Word).toNat ∧
      Fits s (max (neg 1).toNat (1016 : Word).toNat) (0 : Word).toNat ∧
      (6 : Word).toNat > 0 ∧ max (1018 : Word).toNat (1019 : Word).toNat + (6 : Word).toNat > s.params.memLimit) ∧
    (at0 [] [5, 6]).stack.length < 3 := by
  unfold Fits; decide

/-! Control. -/

/-- A JUMPDEST after a PUSH is a valid target: an opcode position. -/
theorem witness_valid_target : ValidTarget (at0 [0x60, 0x5B, 0x5B] []) 2 :=
  ⟨by decide, by decide, .inr (.next 0 0x60 (.zero (by decide)) (by decide) (by decide))⟩

/-- The offset L, and a byte that is not a JUMPDEST, are not. -/
theorem witness_invalid_target : ¬ ValidTarget (at0 [0x60, 0x5B, 0x5B] []) 3 ∧ ¬ ValidTarget (at0 [0x60, 0x5B, 0x5B] []) 0 :=
  ⟨fun h => absurd h.1 (by decide), fun h => absurd h.2.1 (by decide)⟩

theorem witness_JumpGoesToValidTarget :
    ((at0 [0x60, 0x5B, 0x5B] [2]).stack = 2 :: [] ∧ ValidTarget (at0 [0x60, 0x5B, 0x5B] [2]) (2 : Word).toNat) ∧
    ((at0 [0x60, 0x5B, 0x5B] [3]).stack = 3 :: [] ∧ ¬ ValidTarget (at0 [0x60, 0x5B, 0x5B] [3]) (3 : Word).toNat) ∧
    (at0 [0x56] []).stack = [] :=
  ⟨⟨rfl, witness_valid_target⟩, ⟨rfl, witness_invalid_target.1⟩, rfl⟩

theorem witness_JumpiChecksOnlyTakenTarget :
    ((at0 [0x60, 0x5B, 0x5B] [2, 1]).stack = 2 :: 1 :: [] ∧ (1 : Word).toNat ≠ 0 ∧
      ValidTarget (at0 [0x60, 0x5B, 0x5B] [2, 1]) (2 : Word).toNat) ∧
    ((neg 1).toNat ≠ 0 ∧ ¬ ValidTarget (at0 [0x60, 0x5B, 0x5B] [3, neg 1]) (3 : Word).toNat) ∧
    (0 : Word).toNat = 0 ∧ (at0 [0x57] [2]).stack.length < 2 :=
  ⟨⟨rfl, by decide, witness_valid_target⟩, ⟨by decide, witness_invalid_target.1⟩, rfl, by decide⟩

theorem witness_MsizeJumpdestPcGas : (at0 [] [5]).stack.length < 1024 ∧ (at0 [] full).stack.length = 1024 ∧
    (let s := { at0 [0x5A] [5] with gas := 1 }
     s.status = .running ∧ s.code[s.pc]? = some 0x5A ∧ s.stack.length < 1024 ∧
      s.params.gasCost.controlFlow ≤ s.gas.toNat) := by
  refine ⟨by decide, full_length, by decide⟩

/-- RETURN and REVERT: a range at the limit, an empty range at the largest offset, a range past the limit, one operand. -/
theorem witness_ReturnCapturesMemory_RevertHaltsWithData :
    (let s := withParams { Params.atReset with memLimit := 1024 } (at0 [] [1022, 2])
     s.stack = 1022 :: 2 :: [] ∧ Fits s (1022 : Word).toNat (2 : Word).toNat ∧ Fits s (neg 1).toNat (0 : Word).toNat ∧
      ¬ Fits s (1023 : Word).toNat (2 : Word).toNat) ∧ (at0 [] [5]).stack.length < 2 := by
  unfold Fits; decide

/-- STOP, RETURN, a taken JUMP and JUMPI, an untaken JUMPI, an advance, and an error. -/
theorem witness_DefaultAdvance :
    (∀ i ∈ [Instr.stop, .ret, .jump, .jumpi, .add], inBlockCategory i ≠ none) ∧
    (∃ t, exec .stop (at0 [0x00] []) = .next t ∧ t.status = .running) ∧
    (∃ t, exec .ret (at0 [0xF3] [0, 0]) = .next t ∧ t.status = .running) ∧
    (∃ t, exec .jump (at0 [0x5B] [0]) = .next t ∧ t.status = .running) ∧
    (∃ t, exec .jumpi (at0 [0x5B] [0, 1]) = .next t ∧ t.status = .running) ∧
    (∃ t, exec .jumpi (at0 [0x57] [9, 0]) = .next t ∧ t.status = .running) ∧
    (∃ t, exec .add (at0 [0x01] [1, 2]) = .next t ∧ t.status = .running) ∧
    (∃ t, exec .add (at0 [0x01] []) = .next t ∧ t.status ≠ .running) := by
  refine ⟨by decide, ⟨_, rfl, by decide⟩, ⟨_, rfl, by decide⟩, ⟨_, rfl, by decide⟩, ⟨_, rfl, by decide⟩,
    ⟨_, rfl, by decide⟩, ⟨_, rfl, by decide⟩, ⟨_, rfl, by decide⟩⟩

theorem witness_InBlockFrame : inBlockCategory .add ≠ none ∧ (∃ t, exec .add (at0 [0x01] [1, 2]) = .next t) ∧
    Instr.add ∉ [Instr.mload, .mstore, .mstore8, .mcopy, .ret, .revert] ∧ Instr.add ∉ [Instr.stop, .ret, .revert] := by
  refine ⟨by decide, ⟨_, rfl⟩, by decide, by decide⟩

/-- An ADD on an empty stack. -/
theorem witness_InBlockErrorKinds :
    (at0 [0x01] []).code[0]? = some 0x01 ∧ (∀ cat, classify Params.atReset 0x01 ≠ .ext cat) ∧
    (∃ t, step (at0 [0x01] []) = .next t ∧ t.status = .halted (.error .stackUnderflow)) := by
  refine ⟨by decide, fun cat => by cases cat <;> decide, ⟨_, rfl, by decide⟩⟩

/-! External opcodes and frames. -/

theorem witness_ExternalOpsKeepUnitRules : (.calldataload, 0x35) ∈ plainExternals ∧
    (.selfdestruct, 0xFF) ∈ plainExternals ∧ (at0 [] full).stack.length ≤ 1024 ∧ State.reset.mem.wf = true := by
  refine ⟨by decide, by decide, full_length.le, by decide⟩

/-- Two operands popped from two, one result. -/
theorem witness_ExternalReplyIsApplied : 2 ≤ (at0 [0x54] [5, 6]).stack.length ∧
    (at0 [0x54] [5, 6]).stack.length - 2 + [(9 : Word)].length ≤ 1024 := by decide

theorem witness_CallOpsAnswer : (.call, 0xF1) ∈ calls ++ creates ∧ (.create2, 0xF5) ∈ calls ++ creates ∧
    State.reset.status = .running := by decide

/-- A frame that pops two operands, grows memory to cover a region, and reads an input region of two bytes. -/
def twoOperandFrame (inOff : Word) (code : Option (List Byte)) : CallFrame :=
  { plainFrame code with moreOperands := 1, grown := [(0, 64), (0, 0)], inOff := inOff, inSize := 2 }

/-- A call at the last depth below the limit, popping all its operands and reading an input region that ends at MEM_LIMIT; and
one without a limit. -/
theorem witness_CallEntersFrame :
    (let s := { withParams { Params.atReset with memLimit := 1024, maxCallDepth := some 2 } (at0 [0xF1] [5, 6]) with depth := 1 }
     (.call, 0xF1) ∈ calls ++ creates ∧ ReachesFrame (twoOperandFrame 1022 (some [0x00])) s ∧
      (twoOperandFrame 1022 (some [0x00])).code = some [0x00] ∧ ∀ d, s.params.maxCallDepth = some d → s.depth < d) ∧
    (∀ d, State.reset.params.maxCallDepth = some d → State.reset.depth < d) := by
  refine ⟨⟨by decide, ?_, rfl, fun d h => ?_⟩, fun d h => ?_⟩
  · simp [ReachesFrame, regions, twoOperandFrame, plainFrame, Fits, withParams, at0]
  · cases h; decide
  · cases h

/-- At the limit itself, with code and without, under each action, for a call and a create. -/
theorem witness_DepthLimitRefusesFrame :
    (let s := { withParams { Params.atReset with maxCallDepth := some 2 } (at0 [0xF1] [5, 6]) with depth := 2 }
     ReachesFrame (twoOperandFrame 0 (some [])) s ∧ ReachesFrame (twoOperandFrame 0 none) s ∧ s.stack.length ≤ 1024 ∧
      s.params.maxCallDepth = some 2 ∧ 2 ≤ s.depth ∧ s.params.depthExceeded = .failFlag ∧ (.call, 0xF1) ∈ calls ∧
      (.create, 0xF0) ∈ creates) ∧
    (let p := { Params.atReset with maxCallDepth := some 2, depthExceeded := .abortStackTooDeep }
     p.depthExceeded = .abortStackTooDeep ∧ (.call, 0xF1) ∈ calls ++ creates ∧ (.create, 0xF0) ∈ calls ++ creates) := by
  refine ⟨⟨?_, ?_, by decide⟩, by decide⟩ <;>
    simp [ReachesFrame, regions, twoOperandFrame, plainFrame, Fits, withParams, at0, Params.atReset]

/-- A full stack, whose pops make room for the flag; a call and a create. -/
theorem witness_CodelessTargetNeverRuns :
    (let s := at0 [0xF1] full
     s.status = .running ∧ s.stack.length ≤ 1024 ∧ ReachesFrame (plainFrame none) s ∧ (plainFrame none).code = none ∧
      (∀ d, s.params.maxCallDepth = some d → s.depth < d) ∧ (.call, 0xF1) ∈ calls ∧ (.create, 0xF0) ∈ creates) := by
  refine ⟨rfl, full_length.le, ⟨?_, ?_⟩, rfl, fun d h => ?_, by decide, by decide⟩
  · exact Nat.le_trans (by decide) full_length.ge
  · simp [regions, plainFrame, Fits]
  · cases h

/-- The halted inner frame above callerFrame. -/
def haltedInner : State := { innerFrame [] [] with status := .halted .success }

theorem witness_FrameExitResumesCaller : haltedInner.status = .halted .success ∧ haltedInner.depth ≠ 0 ∧
    haltedInner.save = [] ++ [callerFrame] ∧ callerFrame.code[callerFrame.pc]? = some 0xF1 ∧ (.call, 0xF1) ∈ calls ∧
    haltedInner.params.extOpcodes.lookup 0xF1 = some .callCreate ∧ callerFrame.stack.length < 1024 := by decide

/-- In EXT_OPCODES and not. -/
theorem witness_CreateResumesWithDraw :
    let n := { callerFrame with code := [0xF0] }
    let s := { haltedInner with save := [n], status := .halted (.error .outOfGas) }
    s.status = .halted (.error .outOfGas) ∧ s.depth ≠ 0 ∧ s.save = [] ++ [n] ∧ n.code[n.pc]? = some 0xF0 ∧
      (.create, 0xF0) ∈ creates ∧ s.params.extOpcodes.lookup 0xF0 = some .callCreate ∧
      ({ Params.atReset with extOpcodes := [] }).extOpcodes.lookup 0xF0 = none := by decide

theorem callerFrame_good : callerFrame.Good := ⟨by decide, by decide, by decide⟩

/-- A running inner frame is a good state. -/
theorem innerFrame_good (code : List Byte) : (innerFrame code []).Inv where
  stack_le := Nat.zero_le _
  mem_wf := rfl
  pc_le := Nat.zero_le _
  save_depth := rfl
  saved := fun n hn => by
    have : n = callerFrame := by simpa [innerFrame] using hn
    subst this; exact callerFrame_good
  report := fun e h => by simp [innerFrame, at0, State.reset, State.start] at h

/-- A step within a frame, and the step that leaves it. -/
theorem witness_StepKeepsLowerSnapshots : (innerFrame [0x5B] []).Inv ∧ (∃ t, step (innerFrame [0x5B] []) = .next t) ∧
    (∃ t, step haltedInner = .next t) :=
  ⟨innerFrame_good _, ⟨_, rfl⟩, ⟨_, rfl⟩⟩

/-- An inner frame that runs one step, halts, and returns to its caller. -/
theorem witness_CallerIsolatedFromInnerRun :
    (innerFrame [] []).Inv ∧ (innerFrame [] []).save = [] ++ [callerFrame] ∧
    RunsAbove (innerFrame [] []).depth (innerFrame [] []) haltedInner ∧ haltedInner.depth = (innerFrame [] []).depth ∧
    haltedInner.status = .halted .success ∧ callerFrame.code[callerFrame.pc]? = some 0xF1 ∧ (.call, 0xF1) ∈ calls ∧
    (∃ t, step haltedInner = .next t) :=
  ⟨innerFrame_good _, rfl, .tail _ _ _ (.refl _ le_rfl) rfl le_rfl, rfl, rfl, rfl, by decide, ⟨_, rfl⟩⟩

theorem witness_SharedCountersAndFixedParameters : (∃ t, step (at0 [0x5B] []) = .next t) ∧
    (∃ t, step haltedInner = .next t) := ⟨⟨_, rfl⟩, ⟨_, rfl⟩⟩

theorem witness_FrameMemoryOnlyGrows : (innerFrame [0x5B] []).Inv ∧
    (∃ t, step (innerFrame [0x5B] []) = .next t ∧ t.depth = (innerFrame [0x5B] []).depth) :=
  ⟨innerFrame_good _, ⟨_, rfl, rfl⟩⟩

/-! Errors and the machine as a whole. -/

theorem witness_ErrorHaltsArePrecise : (innerFrame [0x50] []).status = .running ∧
    (∃ t, step (innerFrame [0x50] []) = .next t ∧ t.status = .halted (.error .stackUnderflow)) :=
  ⟨rfl, ⟨_, rfl, by decide⟩⟩

theorem witness_EveryStepKeepsInvariant : (innerFrame [0x50] []).Inv ∧ (∃ t, step (innerFrame [0x50] []) = .next t) :=
  ⟨innerFrame_good _, ⟨_, rfl⟩⟩

theorem witness_OnlyEndedRunsStop : State.Ended { State.reset with status := .halted .success } ∧
    (innerFrame [] []).Inv ∧ ¬ (innerFrame [] []).Ended :=
  ⟨⟨by decide, by decide⟩, innerFrame_good _, fun h => absurd h.1 (by decide)⟩

theorem witness_DebugViewShowsMemory : State.mem { State.reset with mem := someMemory } = someMemory ∧
    someMemory.wf = true := by decide

end Sys2Proof.Tests
end

section
/-! Proofs for spec/10_state.md: the machine's invariant, the shared counters, the snapshots, the memory of a frame, the frame
of the in-block instructions and the debug view. The statements about a step rest on `StepShape`, which sums up what a step
does to the frame register. -/

namespace Sys2Proof.Machine

/-! What a step does to the frame register. -/

/-- t is s after work that neither enters nor leaves a frame: the fields that work can write, within their limits, the gas not
raised; the frame runs on as before or has halted with an error latched at its own program counter. -/
structure StaysInFrame (s t : State) : Prop where
  only : t = { s with pc := t.pc, gas := t.gas, stack := t.stack, mem := t.mem, returndata := t.returndata,
                      status := t.status, report := t.report, draws := t.draws }
  gas_le : t.gas.toNat ≤ s.gas.toNat
  draws_le : s.draws ≤ t.draws
  stack : s.stack.length ≤ stackLimit → t.stack.length ≤ stackLimit
  mem : s.mem.wf = true → t.mem.wf = true
  size : s.mem.size ≤ t.mem.size
  pc : s.pc < s.code.length → t.pc ≤ s.code.length
  ending : t.status = s.status ∨ ∃ e : ErrorKind, t.status = .halted (.error e) ∧ t.pc = s.pc ∧
    t.report = some { pc := s.pc, op := s.opByte, err := e, count := s.count }

namespace StaysInFrame

variable {s t : State}

theorem params (h : StaysInFrame s t) : t.params = s.params := by rw [h.only]
theorem origin (h : StaysInFrame s t) : t.origin = s.origin := by rw [h.only]
theorem code (h : StaysInFrame s t) : t.code = s.code := by rw [h.only]
theorem depth (h : StaysInFrame s t) : t.depth = s.depth := by rw [h.only]
theorem save (h : StaysInFrame s t) : t.save = s.save := by rw [h.only]
theorem count (h : StaysInFrame s t) : t.count = s.count := by rw [h.only]

theorem of_inBlock (h : InBlockEffect s t) : StaysInFrame s t where
  only := by rw [h.only]
  gas_le := by rw [h.only]
  draws_le := by rw [h.only]
  stack := h.stack
  mem := h.mem
  size := h.size
  pc := h.pc
  ending := h.ending.imp And.left fun ⟨e, _, he⟩ => ⟨e, he⟩

theorem of_unit (h : UnitEffect s t) : StaysInFrame s t where
  only := by rw [h.only]
  gas_le := by rw [h.only]
  draws_le := by rw [h.only]
  stack := h.stack
  mem := h.mem
  size := h.size
  pc hp := by
    rcases h.ending with ⟨-, -, hpc | hpc⟩ | ⟨_, -, hpc, -⟩ <;> omega
  ending := h.ending.imp And.left id

/-- Draws made and returndata written before the work belong to it. -/
theorem of_drawn {s' : State} (hs : s' = { s with draws := s'.draws, returndata := s'.returndata })
    (hd : s.draws ≤ s'.draws) (h : StaysInFrame s' t) : StaysInFrame s t := by
  rw [hs] at h
  exact ⟨h.only, h.gas_le, hd.trans h.draws_le, h.stack, h.mem, h.size, h.pc, h.ending⟩

/-- The debit after the work belongs to it. -/
theorem debit (h : StaysInFrame s t) (before : State) : StaysInFrame s (debitAfter before t) := by
  have hle := (debitAfter_le before t).trans h.gas_le
  rw [debitAfter_only] at hle ⊢
  exact ⟨by rw [h.only], hle, h.draws_le, h.stack, h.mem, h.size, h.pc, h.ending⟩

end StaysInFrame

/-- The end of a call opcode stays in the caller's frame. -/
theorem staysInFrame_finishCall (b : Byte) (ok : Bool) (drawnOn s : State) :
    StaysInFrame s (finishCall b ok drawnOn s) := by
  obtain ⟨s', hs', hd, hu⟩ := unit_finishCall (Within.refl s) b ok drawnOn
  exact .of_drawn (by rw [hs']) hd (.of_unit hu)

/-- A call that has entered a frame is not yet debited (spec/44_control.md R223; log entry 23). -/
theorem debitAfter_frameEnter (before m : State) (env : CallEnv) (code cd : List Byte) (hd : m.depth = before.depth) :
    debitAfter before (frameEnter env code cd m) = frameEnter env code cd m := by
  simp [debitAfter, hd]

/-- The four things a step can do to the frame register (spec/10_state.md R32, R34). -/
inductive StepShape (s t : State) : Prop
  /-- The implicit halt at the end of the code. -/
  | halts : s.status = .running → t = s.setStatus (.halted .success) → StepShape s t
  /-- An opcode, counted, within the frame. -/
  | stays : s.status = .running → s.pc < s.code.length → StaysInFrame s.counted t → StepShape s t
  /-- A call or create opcode, counted, that enters a frame from the state m, which has room for the flag. -/
  | enters (m : State) (env : CallEnv) (code cd : List Byte) : s.status = .running → s.pc < s.code.length →
      s.draws ≤ m.draws → Within { s.counted with draws := m.draws } m →
      (s.stack.length ≤ stackLimit → m.stack.length < stackLimit) → t = frameEnter env code cd m → StepShape s t
  /-- FRAME_EXIT to the newest snapshot, and the end of the call opcode there. -/
  | returns (n : Snapshot) : s.status ≠ .running → s.depth ≠ 0 → s.save.getLast? = some n →
      StaysInFrame (frameRestore n s) t → StepShape s t

/-- An external opcode's work and debit, from a running state at an opcode byte. -/
theorem stepShape_of_callEffect {s s' u : State} (hs : s.status = .running) (hpc : s.pc < s.code.length)
    (hs' : s' = { s.counted with draws := s'.draws }) (hd : s.draws ≤ s'.draws) (hu : CallEffect s' u) :
    StepShape s (debitAfter s.counted u) := by
  rcases hu with ⟨s'', hs'', hd'', hu⟩ | ⟨m, env, code, cd, hm, hroom, rfl⟩
  · refine .stays hs hpc (.debit ?_ _)
    exact .of_drawn (by rw [hs']) hd (.of_drawn hs'' hd'' (.of_unit hu))
  · have hdraws : m.draws = s'.draws := by rw [hm.only]
    have hdepth : m.depth = s.counted.depth := by rw [hm.only, hs']
    rw [hs', ← hdraws] at hm
    rw [hs'] at hroom
    exact .enters m env code cd hs hpc (hdraws ▸ hd) hm hroom (debitAfter_frameEnter _ m env code cd hdepth)

theorem stepShape_of_step {s t : State} (h : step s = .next t) : StepShape s t := by
  have hlt {b : Byte} (hb : s.code[s.pc]? = some b) : s.pc < s.code.length := (List.getElem?_eq_some_iff.mp hb).1
  cases step_case h with
  | halt hs _ ht => exact .halts hs ht
  | inBlock u b hs hb _ hu ht => exact ht ▸ .stays hs (hlt hb) (.debit (.of_inBlock hu) _)
  | external u s' b cat hs hb _ hs' hd hu ht => exact ht ▸ stepShape_of_callEffect hs (hlt hb) hs' hd hu
  | resume x n hs hd hn ht =>
    exact ht ▸ .returns n (by simp [hs]) hd hn (.debit (staysInFrame_finishCall _ _ _ _) _)

/-! The invariant (spec/10_state.md R22, R23, R24, R33, R34). -/

/-- The report names only an error halt. -/
theorem State.reportMatches_of_not_failed {s : State} (h : ¬ s.Failed) : s.ReportMatches :=
  fun e he => absurd ⟨e, he⟩ h

theorem State.not_failed_of_running {s : State} (h : s.status = .running) : ¬ s.Failed := by
  simp [State.Failed, h]

theorem StaysInFrame.inv {s t : State} (h : StaysInFrame s t) (hs : s.status = .running) (hpc : s.pc < s.code.length)
    (hi : s.Inv) : t.Inv where
  stack_le := h.stack hi.stack_le
  mem_wf := h.mem hi.mem_wf
  pc_le := h.code ▸ h.pc hpc
  save_depth := by rw [h.save, h.depth, hi.save_depth]
  saved := h.save ▸ hi.saved
  report := by
    rcases h.ending with hrun | ⟨e, he, hp, hr⟩
    · exact State.reportMatches_of_not_failed (State.not_failed_of_running (hrun.trans hs))
    · intro e' he'
      obtain rfl : e = e' := by simpa [he] using he'
      exact ⟨by rwa [hp, h.code], by rw [hr, h.count, hp, State.opByte, State.opByte, hp, h.code]⟩

/-- Counting the opcode and the draws made for it keeps the invariant of a running frame. -/
theorem State.Inv.counted {s : State} (h : s.Inv) (hs : s.status = .running) (draws : Nat) :
    State.Inv { s.counted with draws := draws } :=
  ⟨h.stack_le, h.mem_wf, h.pc_le, h.save_depth, h.saved,
    State.reportMatches_of_not_failed (State.not_failed_of_running hs)⟩

theorem State.Inv.halted {s : State} (h : s.Inv) : (s.setStatus (.halted .success)).Inv :=
  ⟨h.stack_le, h.mem_wf, h.pc_le, h.save_depth, h.saved,
    State.reportMatches_of_not_failed (by simp [State.Failed])⟩

/-- A state that may enter a frame has a good snapshot. -/
theorem State.Inv.snapshot_good {s : State} (h : s.Inv) (hroom : s.stack.length < stackLimit)
    (hpc : s.pc < s.code.length) : s.snapshot.Good := ⟨hroom, h.mem_wf, hpc⟩

theorem Within.inv {s t : State} (h : Within s t) (hs : s.status = .running) (hi : s.Inv) : t.Inv where
  stack_le := h.stack hi.stack_le
  mem_wf := h.mem hi.mem_wf
  pc_le := by rw [h.pc, h.code]; exact hi.pc_le
  save_depth := by rw [h.only]; exact hi.save_depth
  saved := by rw [h.only]; exact hi.saved
  report := State.reportMatches_of_not_failed (State.not_failed_of_running (h.status.trans hs))

/-- FRAME_ENTER (spec/45_frames_external.md R253). -/
theorem State.Inv.frameEnter {s : State} (h : s.Inv) (hn : s.snapshot.Good) (env : CallEnv) (code cd : List Byte) :
    (frameEnter env code cd s).Inv where
  stack_le := Nat.zero_le _
  mem_wf := rfl
  pc_le := Nat.zero_le _
  save_depth := by simp [h.save_depth]
  saved := by
    intro n hmem
    rcases List.mem_append.mp hmem with hold | hnew
    · exact h.saved n hold
    · exact List.mem_singleton.mp hnew ▸ hn
  report := State.reportMatches_of_not_failed (State.not_failed_of_running rfl)

/-- FRAME_EXIT (R255). -/
theorem State.Inv.frameRestore {s : State} (h : s.Inv) {n : Snapshot} (hn : n.Good) : (frameRestore n s).Inv where
  stack_le := hn.stack_lt.le
  mem_wf := hn.mem_wf
  pc_le := hn.pc_lt.le
  save_depth := by simp [h.save_depth]
  saved m hm := h.saved m (List.mem_of_mem_dropLast hm)
  report := State.reportMatches_of_not_failed (State.not_failed_of_running rfl)

/-- Settles O58, by the four things a step can do to the frame register. -/
theorem everyStepKeepsInvariant : Obligations.EveryStepKeepsInvariant := by
  unfold Obligations.EveryStepKeepsInvariant
  intro s t hi h
  cases stepShape_of_step h with
  | halts _ ht => exact ht ▸ hi.halted
  | stays hs hpc ht => exact ht.inv hs hpc (hi.counted hs s.draws)
  | enters m env code cd hs hpc _ hm hroom ht =>
    have hmi : m.Inv := hm.inv hs (hi.counted hs m.draws)
    have hmpc : m.pc < m.code.length := by rw [hm.pc, hm.code]; exact hpc
    exact ht ▸ hmi.frameEnter (hmi.snapshot_good (hroom hi.stack_le) hmpc) env code cd
  | returns n _ _ hn ht =>
    have hgood := hi.saved n (List.mem_of_getLast? hn)
    exact ht.inv rfl hgood.pc_lt (hi.frameRestore hgood)

/-! Snapshots, counters and the memory of a frame. -/

/-- Settles O51, by the four things a step can do to the frame register. -/
theorem stepKeepsLowerSnapshots : Obligations.StepKeepsLowerSnapshots := by
  unfold Obligations.StepKeepsLowerSnapshots
  intro s t _ h
  cases stepShape_of_step h with
  | halts _ ht => subst ht; exact .inl ⟨rfl, rfl⟩
  | stays _ _ ht => exact .inl ⟨ht.depth, ht.save⟩
  | enters m env code cd _ _ _ hm _ ht =>
    subst ht
    have hdepth : m.depth = s.depth := by rw [hm.only]; rfl
    have hsave : m.save = s.save := by rw [hm.only]; rfl
    exact .inr (.inl ⟨by simp [hdepth], m.snapshot, by simp [hsave]⟩)
  | returns n hs hd _ ht =>
    exact .inr (.inr ⟨by rw [ht.depth, frameRestore_depth]; omega, ht.save, hs⟩)

/-- Settles O53, by the four things a step can do to the frame register. -/
theorem sharedCountersAndFixedParameters : Obligations.SharedCountersAndFixedParameters := by
  unfold Obligations.SharedCountersAndFixedParameters
  intro s t h
  cases stepShape_of_step h with
  | halts _ ht => subst ht; exact ⟨rfl, rfl, le_rfl, .inl rfl, le_rfl⟩
  | stays hs _ ht => exact ⟨ht.params, ht.origin, ht.gas_le, .inr ⟨ht.count, hs⟩, ht.draws_le⟩
  | enters m env code cd hs _ hd hm _ ht =>
    subst ht
    have hparams : m.params = s.params := by rw [hm.only]; rfl
    have horigin : m.origin = s.origin := by rw [hm.only]; rfl
    have hgas : m.gas = s.gas := by rw [hm.only]; rfl
    exact ⟨hparams, horigin, hgas ▸ le_rfl, .inr ⟨hm.count, hs⟩, hd⟩
  | returns n _ _ _ ht => exact ⟨ht.params, ht.origin, ht.gas_le, .inl ht.count, ht.draws_le⟩

/-- Settles O54: a step that keeps the depth is no frame entry and no frame exit. -/
theorem frameMemoryOnlyGrows : Obligations.FrameMemoryOnlyGrows := by
  unfold Obligations.FrameMemoryOnlyGrows
  intro s t hi h hdepth
  have hmod : t.mem.size % 32 = 0 := ((Memory.wf_iff _).mp (everyStepKeepsInvariant s t hi h).mem_wf).2
  suffices t.code = s.code ∧ s.mem.size ≤ t.mem.size from ⟨this.1, this.2, hmod⟩
  cases stepShape_of_step h with
  | halts _ ht => subst ht; exact ⟨rfl, le_rfl⟩
  | stays _ _ ht => exact ⟨ht.code, ht.size⟩
  | enters m env code cd _ _ _ hm _ ht =>
    have hm_depth : m.depth = s.depth := by rw [hm.only]; rfl
    rw [ht, frameEnter_depth] at hdepth
    omega
  | returns n _ hd _ ht =>
    rw [ht.depth, frameRestore_depth] at hdepth
    omega

/-! The memory and the returndata under an in-block instruction (spec/10_state.md R31, spec/20_memory.md R60). -/

/-- t has the memory and the returndata of s. -/
def SameBuffers (s t : State) : Prop := t.mem = s.mem ∧ t.returndata = s.returndata

theorem SameBuffers.refl (s : State) : SameBuffers s s := ⟨rfl, rfl⟩

section
variable {s0 s : State}

theorem sameBuffers_pop (h : SameBuffers s0 s) (k : Word → State → State)
    (hk : ∀ a t, SameBuffers s0 t → SameBuffers s0 (k a t)) : SameBuffers s0 (popThen s k) :=
  popThen_elim s k (fun _ => h) fun a _ _ => hk a _ h

theorem sameBuffers_push (h : SameBuffers s0 s) (v : Word) (n : Nat) :
    SameBuffers s0 (pushThen v s (State.advance n)) :=
  pushThen_elim v s _ (fun _ => h) fun _ => h

theorem sameBuffers_jumpTo (h : SameBuffers s0 s) (t : Word) : SameBuffers s0 (jumpTo t s) := by
  unfold jumpTo
  split_ifs
  · exact h
  · exact h

end

theorem sameBuffers_pop2 (s : State) (k : Word → Word → State → State)
    (hk : ∀ a b t, SameBuffers s t → SameBuffers s (k a b t)) : SameBuffers s (pop2Then s k) :=
  sameBuffers_pop (.refl s) _ fun a _ h => sameBuffers_pop h _ (hk a)

theorem sameBuffers_pushResult (v : Word) (s : State) : SameBuffers s (pushResult v s) := sameBuffers_push (.refl s) v 1

theorem sameBuffers_alu1 (f : Word → Word) (s : State) : SameBuffers s (alu1 f s) :=
  sameBuffers_pop (.refl s) _ fun _ _ h => sameBuffers_push h _ 1

theorem sameBuffers_alu2 (f : Word → Word → Word) (s : State) : SameBuffers s (alu2 f s) :=
  sameBuffers_pop2 s _ fun _ _ _ h => sameBuffers_push h _ 1

theorem sameBuffers_alu3 (f : Word → Word → Word → Word) (s : State) : SameBuffers s (alu3 f s) :=
  sameBuffers_pop2 s _ fun _ _ _ h => sameBuffers_pop h _ fun _ _ h => sameBuffers_push h _ 1

theorem sameBuffers_pushImmediate (n : Nat) (imm : Word) (s : State) : SameBuffers s (pushImmediate n imm s) := by
  unfold pushImmediate
  split_ifs
  · exact .refl s
  · exact sameBuffers_push (.refl s) imm (1 + n)

theorem sameBuffers_dup (n : Nat) (s : State) : SameBuffers s (dupThen n s (State.advance 1)) :=
  dupThen_elim n s _ (fun _ => .refl s) (fun _ _ => .refl s) fun _ _ _ => .refl s

theorem sameBuffers_swap (n : Nat) (s : State) : SameBuffers s (swapThen n s (State.advance 1)) :=
  swapThen_elim n s _ (fun _ => .refl s) fun _ _ => .refl s

theorem sameBuffers_jumpi (s : State) :
    SameBuffers s (pop2Then s fun t c s' => if isNonzero c then jumpTo t s' else s'.advance 1) := by
  refine sameBuffers_pop2 s _ fun t c s' h => ?_
  split_ifs
  · exact sameBuffers_jumpTo h t
  · exact h

/-- The in-block instructions that write memory and go on. -/
def memoryInstrs : List Instr := [.mload, .mstore, .mstore8, .mcopy]

/-- The in-block instructions that can touch memory or returndata. -/
def bufferInstrs : List Instr := memoryInstrs ++ [.stop, .ret, .revert]

/-- Every other in-block instruction works on the stack and the program counter alone. -/
theorem exec_sameBuffers (i : Instr) (s t : State) (hi : inBlockCategory i ≠ none) (hb : i ∉ bufferInstrs)
    (h : exec i s = .next t) : SameBuffers s t := by
  cases i with
  | add | mul | sub | div | sdiv | mod | smod | exp | signextend => cases h; exact sameBuffers_alu2 _ s
  | lt | gt | slt | sgt | eq | and | or | xor | byte | shl | shr | sar => cases h; exact sameBuffers_alu2 _ s
  | iszero | not => cases h; exact sameBuffers_alu1 _ s
  | addmod | mulmod => cases h; exact sameBuffers_alu3 _ s
  | pc | msize | gas | push0 => cases h; exact sameBuffers_pushResult _ s
  | push1 | push2 | push3 | push4 | push5 | push6 | push7 | push8 => cases h; exact sameBuffers_pushImmediate _ _ s
  | push9 | push10 | push11 | push12 | push13 | push14 | push15 | push16 => cases h; exact sameBuffers_pushImmediate _ _ s
  | push17 | push18 | push19 | push20 | push21 | push22 | push23 | push24 => cases h; exact sameBuffers_pushImmediate _ _ s
  | push25 | push26 | push27 | push28 | push29 | push30 | push31 | push32 => cases h; exact sameBuffers_pushImmediate _ _ s
  | dup1 | dup2 | dup3 | dup4 | dup5 | dup6 | dup7 | dup8 => cases h; exact sameBuffers_dup _ s
  | dup9 | dup10 | dup11 | dup12 | dup13 | dup14 | dup15 | dup16 => cases h; exact sameBuffers_dup _ s
  | swap1 | swap2 | swap3 | swap4 | swap5 | swap6 | swap7 | swap8 => cases h; exact sameBuffers_swap _ s
  | swap9 | swap10 | swap11 | swap12 | swap13 | swap14 | swap15 | swap16 => cases h; exact sameBuffers_swap _ s
  | pop => cases h; exact sameBuffers_pop (.refl s) _ fun _ _ ht => ht
  | jump => cases h; exact sameBuffers_pop (.refl s) _ fun a _ ht => sameBuffers_jumpTo ht a
  | jumpi => cases h; exact sameBuffers_jumpi s
  | jumpdest => cases h; exact .refl s
  | mload | mstore | mstore8 | mcopy | stop | ret | revert => exact absurd (by decide) hb
  | calldataload | sload | sstore | log0 | log1 | log2 | log3 | log4 | selfdestruct => exact absurd rfl hi
  | create | call | callcode | delegatecall | create2 | staticcall => exact absurd rfl hi

/-- t has the returndata of s. -/
def SameReturndata (s t : State) : Prop := t.returndata = s.returndata

theorem Within.sameReturndata {s t : State} (h : Within s t) : SameReturndata s t := by rw [SameReturndata, h.only]

theorem sameReturndata_pop2 (s : State) (k : Word → Word → State → State)
    (hk : ∀ a b t, Within s t → SameReturndata s (k a b t)) : SameReturndata s (pop2Then s k) :=
  within_pop (.refl s) _ (fun _ ht => ht.sameReturndata) fun a _ ht =>
    within_pop ht _ (fun _ ht => ht.sameReturndata) fun b _ ht => hk a b _ ht

theorem sameReturndata_store (s : State) (bytes : Word → List Byte) :
    SameReturndata s (pop2Then s fun off v t => writeThen off.toNat (bytes v) t (State.advance 1)) :=
  sameReturndata_pop2 s _ fun _ _ _ ht =>
    within_write ht _ _ _ (fun _ ht => ht.sameReturndata) fun _ ht => ht.sameReturndata

theorem exec_memoryInstr_sameReturndata (i : Instr) (s t : State) (hi : i ∈ memoryInstrs) (h : exec i s = .next t) :
    SameReturndata s t := by
  simp only [memoryInstrs, List.mem_cons, List.not_mem_nil, or_false] at hi
  rcases hi with rfl | rfl | rfl | rfl
  · cases h
    exact within_pop (.refl s) _ (fun _ ht => ht.sameReturndata) fun _ _ ht =>
      within_read ht _ _ _ (fun _ ht => ht.sameReturndata) fun _ _ ht =>
        within_push ht _ _ (fun _ ht => ht.sameReturndata) fun _ ht => ht.sameReturndata
  · cases h; exact sameReturndata_store s wordToBytes
  · cases h; exact sameReturndata_store s fun v => [v.extractLsb' 0 8]
  · cases h
    exact sameReturndata_pop2 s _ fun _ _ _ ht => within_pop ht _ (fun _ ht => ht.sameReturndata) fun _ _ ht =>
      within_extend ht _ _ _ (fun _ ht => ht.sameReturndata) fun _ ht _ => ht.sameReturndata

theorem exec_stop_mem (s t : State) (h : exec .stop s = .next t) : t.mem = s.mem := by
  cases h
  split_ifs
  · rfl
  · rfl

/-- Settles O41: the effect of every in-block instruction bounds what it writes, and all but the seven of `bufferInstrs` leave
memory and returndata alone; of the seven, STOP leaves the memory and the memory instructions the returndata. -/
theorem inBlockFrame : Obligations.InBlockFrame := by
  unfold Obligations.InBlockFrame
  intro i s t hi h
  have hsame (hb : i ∉ bufferInstrs) : SameBuffers s t := exec_sameBuffers i s t hi hb h
  refine ⟨?_, fun hm => ?_, fun hr => ?_⟩
  · obtain ⟨u, hu, heffect⟩ := exec_inBlock i s hi
    obtain rfl : u = t := Host.Outcome.next.inj (hu.symm.trans h)
    exact heffect.only
  · by_cases hstop : i = .stop
    · exact exec_stop_mem s t (hstop ▸ h)
    · exact (hsame (by simp_all [bufferInstrs, memoryInstrs])).left
  · by_cases hmem : i ∈ memoryInstrs
    · exact exec_memoryInstr_sameReturndata i s t hmem h
    · exact (hsame (List.mem_append.not.mpr (not_or.mpr ⟨hmem, hr⟩))).right

/-! The debug view (spec/10_state.md R42). -/

theorem Memory.readBytes_add (m : Memory) (off a b : Nat) :
    m.readBytes off (a + b) = m.readBytes off a ++ m.readBytes (off + a) b := by
  simp [Memory.readBytes, List.range_add, Nat.add_assoc]

/-- Chunks that follow one another are the bytes they cover. -/
theorem Memory.flatten_chunks (m : Memory) (n k : Nat) :
    ((List.range k).map fun j => m.readBytes (n * j) n).flatten = m.readBytes 0 (n * k) := by
  induction k with
  | zero => rfl
  | succ k ih =>
    rw [List.range_succ, List.map_append, List.flatten_append, ih, Nat.mul_succ, Memory.readBytes_add, Nat.zero_add]
    simp

/-- Settles O60: the chunks together are the memory's bytes from 0 up to its length, which is a multiple of 32. -/
theorem debugViewShowsMemory : Obligations.DebugViewShowsMemory := by
  unfold Obligations.DebugViewShowsMemory
  intro s hwf
  have hsize : 32 * (s.mem.size / 32) = s.mem.size := by
    have := ((Memory.wf_iff _).mp hwf).2
    omega
  have hbytes : (debugView s).memory.flatten = s.mem.readBytes 0 s.mem.size := by
    rw [debugView, Memory.flatten_chunks, hsize]
  refine ⟨rfl, fun c hc => ?_, by rw [hbytes, Memory.readBytes_length], fun a ha => ?_⟩
  · obtain ⟨k, -, rfl⟩ := List.mem_map.mp hc
    exact Memory.readBytes_length _ _ _
  · have ha' : a < (s.mem.readBytes 0 s.mem.size).length := by rwa [Memory.readBytes_length]
    rw [hbytes, List.getElem?_eq_getElem ha', Memory.readBytes_getElem, Nat.zero_add]

end Sys2Proof.Machine
end

section
/-! Proofs for spec/20_memory.md: memory's growth, and its law of write then read. The law rests on `Memory.written`, the memory
a write leaves: its length, its bytes and its canonical form. -/

namespace Sys2Proof.Machine

open Sys2Proof.Claims (grownSize)

/-! Growth over a range (R62, R63). -/

theorem Memory.grow_of_le {m : Memory} {len : Nat} (h : len ≤ m.size) : m.grow len = m := by
  rw [Memory.grow, max_eq_left h]

/-- A length in whole quanta that covers a range covers what the range rounds up to. -/
theorem roundUp32_le {n size : Nat} (hmod : size % 32 = 0) (h : n ≤ size) : roundUp32 n ≤ size := by
  unfold roundUp32; omega

theorem Memory.grow_roundUp32_size (m : Memory) (off n : Nat) (h0 : n ≠ 0) :
    (m.grow (roundUp32 (off + n))).size = grownSize m.size off n := by
  rw [grownSize, if_neg h0, Memory.grow_size, roundUp32]

/-- A read of a range that memory covers grows nothing (R72). -/
theorem readThen_covered (off n : Nat) (s : State) (k : List Byte → State → State) (hwf : s.mem.wf = true)
    (hcov : off + n ≤ s.mem.size) (hlim : off + n ≤ s.params.memLimit) :
    readThen off n s k = k (s.mem.readBytes off n) s := by
  have hmod : s.mem.size % 32 = 0 := ((Memory.wf_iff _).mp hwf).2
  have hle : (if n = 0 then s.mem.size else roundUp32 (off + n)) ≤ s.mem.size := by
    split_ifs
    · exact le_rfl
    · exact roundUp32_le hmod hcov
  rw [readThen_fits off n s k (.inr hlim), Memory.grow_of_le hle, State.setMem]

/-- Settles O27: a range that fits grows memory to its end rounded up, and past the old length a canonical memory reads 0. -/
theorem memExtendGrowsZeroFilled : Obligations.MemExtendGrowsZeroFilled := by
  unfold Obligations.MemExtendGrowsZeroFilled
  intro off n s k hwf
  refine ⟨fun hn => ?_, fun hn hlim => ?_, fun hn hlim => ?_⟩
  · rw [hn, extendThen_empty]
  · exact extendThen_exceeded off n s k (by omega) hlim
  · exact ⟨s.mem.grow (roundUp32 (off + n)), roundUp32 (off + n), extendThen_fits off n s k (by omega) hlim,
      Memory.grow_roundUp32_wf hwf _, Memory.grow_size _ _, roundUp32_mod _, le_roundUp32 _, roundUp32_lt _,
      fun a => Memory.grow_read _ _ a, fun a ha => Memory.read_of_ge hwf ha⟩

/-! A write that fits (R67). -/

/-- The memory a non-empty write leaves: grown over the range, then written. -/
def Memory.written (m : Memory) (off : Nat) (bytes : List Byte) : Memory :=
  (m.grow (roundUp32 (off + bytes.length))).writeBytes off bytes

theorem writeThen_fits (off : Nat) (bytes : List Byte) (s : State) (k : State → State) (h0 : bytes ≠ [])
    (hlim : off + bytes.length ≤ s.params.memLimit) :
    writeThen off bytes s k = k (s.setMem (s.mem.written off bytes)) := by
  rw [writeThen, extendThen_fits off _ s _ (List.length_eq_zero_iff.not.mpr h0) hlim]; rfl

theorem writeThen_exceeded (off : Nat) (bytes : List Byte) (s : State) (k : State → State) (h0 : bytes ≠ [])
    (hlim : s.params.memLimit < off + bytes.length) : writeThen off bytes s k = raise .outOfGas s :=
  extendThen_exceeded off _ s _ (List.length_eq_zero_iff.not.mpr h0) hlim

theorem Memory.written_size (m : Memory) (off : Nat) {bytes : List Byte} (h0 : bytes ≠ []) :
    (m.written off bytes).size = grownSize m.size off bytes.length := by
  rw [Memory.written, Memory.writeBytes_size, Memory.grow_roundUp32_size m off _ (List.length_eq_zero_iff.not.mpr h0)]

theorem Memory.written_covers (m : Memory) (off : Nat) (bytes : List Byte) :
    off + bytes.length ≤ (m.written off bytes).size := by
  rw [Memory.written, Memory.writeBytes_size]; exact Memory.grow_covers m off _

section
variable {m : Memory} (hwf : m.wf = true) (off : Nat) (bytes : List Byte)
include hwf

theorem Memory.written_wf : (m.written off bytes).wf = true :=
  Memory.writeBytes_wf (Memory.grow_roundUp32_wf hwf _) bytes (Memory.grow_covers m off _)

theorem Memory.written_readBytes : (m.written off bytes).readBytes off bytes.length = bytes :=
  Memory.readBytes_writeBytes (Memory.grow_roundUp32_wf hwf _) bytes (Memory.grow_covers m off _)

theorem Memory.written_read (a : Nat) : (m.written off bytes).read a =
    if off ≤ a ∧ a < off + bytes.length then bytes.getD (a - off) 0 else m.read a :=
  Memory.read_writeBytes (Memory.grow_roundUp32_wf hwf _) bytes (Memory.grow_covers m off _) a

theorem Memory.written_read_inside {j : Nat} (hj : j < bytes.length) :
    (m.written off bytes).read (off + j) = bytes.getD j 0 := by
  rw [Memory.written_read hwf, if_pos ⟨by omega, by omega⟩, Nat.add_sub_cancel_left]

theorem Memory.written_read_outside {a : Nat} (ha : a < off ∨ off + bytes.length ≤ a) :
    (m.written off bytes).read a = m.read a := by
  rw [Memory.written_read hwf, if_neg (by omega)]

end

/-- Settles O28: the write leaves memory covering its range, so the read that follows grows nothing and finds the bytes. -/
theorem memWriteThenRead : Obligations.MemWriteThenRead := by
  unfold Obligations.MemWriteThenRead
  intro off bytes s hwf h0
  refine ⟨fun hlim k => writeThen_exceeded off bytes s k h0 hlim, fun hlim k => ?_⟩
  refine ⟨s.setMem (s.mem.written off bytes), ?_, rfl, Memory.written_wf hwf off bytes, Memory.written_size _ off h0,
    fun a ha => Memory.written_read_outside hwf off bytes ha, fun j hj => Memory.written_read_inside hwf off bytes hj⟩
  calc (writeThen off bytes s fun t => readThen off bytes.length t k)
      = readThen off bytes.length (s.setMem (s.mem.written off bytes)) k := writeThen_fits off bytes s _ h0 hlim
    _ = k ((s.mem.written off bytes).readBytes off bytes.length) (s.setMem (s.mem.written off bytes)) :=
        readThen_covered off _ _ k (Memory.written_wf hwf off bytes) (Memory.written_covers _ off bytes) hlim
    _ = k bytes (s.setMem (s.mem.written off bytes)) := by rw [Memory.written_readBytes hwf]

end Sys2Proof.Machine
end

section
/-! Proofs for spec/30_encoding.md: the decoder and the encoder undo each other, the class of every byte, and the steps those
classes decide. Both directions of the round trip rest on two facts about the opcode table: PUSHn is the constructor at n-1 of
`pushConstructors` (`pushConstructors_getElem?`, `Instr.exists_pushConstructor`), and every other instruction is the row of its
own opcode byte (`Instr.plainRow`, `plainRows_lookup`). -/

namespace Sys2Proof.Machine

/-- A Word that n bytes hold is read back from its n low bytes. -/
theorem wordOfBytes_natToBytes {n : Nat} {w : Word} (h : w.toNat < 256 ^ n) : wordOfBytes (natToBytes n w.toNat) = w := by
  rw [wordOfBytes, bytesToNat_natToBytes, Nat.mod_eq_of_lt h, wordOfNat, BitVec.ofNat_toNat, BitVec.setWidth_eq]

/-- Big-endian: byte j of n counts 256^(n-1-j) times (R92). -/
theorem bytesToNat_eq_sum (bytes : List Byte) : bytesToNat bytes =
    ∑ j ∈ Finset.range bytes.length, (bytes.getD j 0).toNat * 256 ^ (bytes.length - 1 - j) := by
  induction bytes with
  | nil => rfl
  | cons b bs ih =>
    rw [bytesToNat_cons, ih, List.length_cons, Finset.sum_range_succ', Nat.add_comm]
    congr 1
    refine Finset.sum_congr rfl fun j _ => ?_
    rw [List.getD_cons_succ, show bs.length + 1 - 1 - (j + 1) = bs.length - 1 - j by omega]

end Sys2Proof.Machine

namespace Sys2Proof

open Sys2Proof.Machine

/-! The PUSH rows of the table (R91). -/

theorem pushConstructors_map (w : Word) : pushConstructors.map (fun c => ((c w).pushParts, (c w).opcode)) =
    (List.range 32).map fun k => (some (k + 1, w), BitVec.ofNat 8 (0x60 + k)) := rfl

theorem pushConstructors_lt {k : Nat} {c : Word → Instr} (hc : pushConstructors[k]? = some c) : k < 32 :=
  (List.getElem?_eq_some_iff.mp hc).1

/-- The constructor at k is that of PUSH(k+1), whose byte is 0x60 + k. -/
theorem pushConstructors_getElem? {k : Nat} {c : Word → Instr} (hc : pushConstructors[k]? = some c) (w : Word) :
    (c w).pushParts = some (k + 1, w) ∧ (c w).opcode = BitVec.ofNat 8 (0x60 + k) := by
  have h := congrArg (·[k]?) (pushConstructors_map w)
  simpa [hc, pushConstructors_lt hc] using h

/-- Every instruction with an immediate is one of them. -/
theorem Instr.exists_pushConstructor {i : Instr} {n : Nat} {imm : Word} (h : i.pushParts = some (n, imm)) :
    ∃ k c, n = k + 1 ∧ pushConstructors[k]? = some c ∧ i = c imm := by
  cases i <;> cases h
  all_goals exact ⟨_, _, rfl, rfl, rfl⟩

theorem pushByte_toNat {k : Nat} (hk : k < 32) : (BitVec.ofNat 8 (0x60 + k)).toNat = 0x60 + k := by
  rw [BitVec.toNat_ofNat]
  omega

theorem Instr.pushByte {i : Instr} {n : Nat} {imm : Word} (h : i.pushParts = some (n, imm)) :
    (0x60 ≤ i.opcode.toNat ∧ i.opcode.toNat ≤ 0x7F) ∧ i.opcode.toNat - 0x5F = n := by
  obtain ⟨k, c, rfl, hc, rfl⟩ := Instr.exists_pushConstructor h
  have hk := pushConstructors_lt hc
  rw [(pushConstructors_getElem? hc imm).2, pushByte_toNat hk]
  omega

/-! The rows without an immediate (R95, R98). -/

/-- An instruction without an immediate has a row, which its byte, no PUSH byte, finds. -/
theorem Instr.plainRow {i : Instr} (h : i.pushParts = none) :
    ¬ (0x60 ≤ i.opcode.toNat ∧ i.opcode.toNat ≤ 0x7F) ∧ plainRows.lookup i.opcode = some i := by
  cases i <;> cases h
  all_goals exact ⟨by decide, rfl⟩

theorem mem_plainRows_of_lookup {b : Byte} {i : Instr} (h : plainRows.lookup b = some i) : (b, i) ∈ plainRows := by
  obtain ⟨before, after, hrows, -⟩ := List.lookup_eq_some_iff.mp h
  simp [hrows]

/-- What a byte finds there has no immediate and that byte. -/
theorem plainRows_lookup {b : Byte} {i : Instr} (h : plainRows.lookup b = some i) : i.pushParts = none ∧ i.opcode = b := by
  have hall : ∀ r ∈ plainRows, r.2.pushParts = none ∧ r.2.opcode = r.1 := by decide
  exact hall (b, i) (mem_plainRows_of_lookup h)

/-! The encoder, the well-formedness and the decoder, for an instruction with an immediate and for one without (R90, R92). -/

theorem encode_push {i : Instr} {n : Nat} {imm : Word} (h : i.pushParts = some (n, imm)) :
    encode i = i.opcode :: natToBytes n imm.toNat := by
  simp [encode, h]

theorem encode_plain {i : Instr} (h : i.pushParts = none) : encode i = [i.opcode] := by
  simp [encode, h]

theorem Instr.wellFormed_push {i : Instr} {n : Nat} {imm : Word} (h : i.pushParts = some (n, imm)) :
    i.wellFormed = true ↔ imm.toNat < 256 ^ n := by
  simp [Instr.wellFormed, h]

theorem Instr.wellFormed_plain {i : Instr} (h : i.pushParts = none) : i.wellFormed = true := by
  simp [Instr.wellFormed, h]

theorem decode_push {k : Nat} {c : Word → Instr} (hc : pushConstructors[k]? = some c) (bytes rest : List Byte)
    (hlen : bytes.length = k + 1) :
    decode (BitVec.ofNat 8 (0x60 + k) :: (bytes ++ rest)) = .ok (c (wordOfBytes bytes), rest) := by
  have hk := pushConstructors_lt hc
  rw [decode, pushByte_toNat hk, if_pos (by omega), show 0x60 + k - 0x5F = k + 1 by omega, decodePush,
    if_neg (by rw [List.length_append]; omega), Nat.add_sub_cancel, hc, ← hlen]
  simp

theorem decode_plain {i : Instr} (h : i.pushParts = none) (rest : List Byte) :
    decode (i.opcode :: rest) = .ok (i, rest) := by
  obtain ⟨hbyte, hrow⟩ := Instr.plainRow h
  rw [decode, if_neg hbyte, hrow]

/-- What the decoder has read at byte b: PUSH(k+1) with its bytes, or the row of a byte without an immediate. -/
theorem decode_cases {b : Byte} {tail rest : List Byte} {i : Instr} (h : decode (b :: tail) = .ok (i, rest)) :
    (∃ k c, b = BitVec.ofNat 8 (0x60 + k) ∧ pushConstructors[k]? = some c ∧ k + 1 ≤ tail.length ∧
      i = c (wordOfBytes (tail.take (k + 1))) ∧ rest = tail.drop (k + 1)) ∨
    (plainRows.lookup b = some i ∧ rest = tail) := by
  rw [decode] at h
  by_cases hb : 0x60 ≤ b.toNat ∧ b.toNat ≤ 0x7F
  · obtain ⟨k, hk⟩ := Nat.exists_eq_add_of_le hb.1
    rw [if_pos hb, hk, show 0x60 + k - 0x5F = k + 1 by omega, decodePush, Nat.add_sub_cancel] at h
    split_ifs at h with hlen
    cases hc : pushConstructors[k]? with
    | none => rw [hc] at h; cases h
    | some c =>
      rw [hc] at h
      cases h
      exact .inl ⟨k, c, by rw [← hk, BitVec.ofNat_toNat, BitVec.setWidth_eq], hc, by omega, rfl, rfl⟩
  · rw [if_neg hb] at h
    cases hl : plainRows.lookup b with
    | none => rw [hl] at h; cases h
    | some j => rw [hl] at h; cases h; exact .inr ⟨rfl, rfl⟩

/-! The round trips. -/

/-- Settles O1: an instruction without an immediate is the row of its byte, and PUSHn reads back the bytes of its immediate. -/
theorem decodeOfEncode : Obligations.DecodeOfEncode := by
  unfold Obligations.DecodeOfEncode
  intro i rest hwf
  match h : i.pushParts with
  | none => rw [encode_plain h]; exact decode_plain h rest
  | some (n, imm) =>
    have himm := (Instr.wellFormed_push h).mp hwf
    rw [encode_push h, List.cons_append]
    obtain ⟨k, c, rfl, hc, rfl⟩ := Instr.exists_pushConstructor h
    rw [(pushConstructors_getElem? hc imm).2, decode_push hc _ rest (natToBytes_length _ _), wordOfBytes_natToBytes himm]

/-- PUSHn of the Word that n bytes hold can be encoded, and by those bytes. -/
theorem encode_pushOfBytes {k : Nat} {c : Word → Instr} (hc : pushConstructors[k]? = some c) (bytes : List Byte)
    (hlen : bytes.length = k + 1) : (c (wordOfBytes bytes)).wellFormed = true ∧
      encode (c (wordOfBytes bytes)) = BitVec.ofNat 8 (0x60 + k) :: bytes := by
  obtain ⟨hparts, hop⟩ := pushConstructors_getElem? hc (wordOfBytes bytes)
  have hk := pushConstructors_lt hc
  rw [Instr.wellFormed_push hparts, encode_push hparts, hop, wordOfBytes_toNat bytes (by omega), ← hlen]
  exact ⟨bytesToNat_lt bytes, by rw [natToBytes_bytesToNat]⟩

/-- Settles O2: the n bytes a PUSHn has read are the bytes of the number they hold. -/
theorem encodeOfDecode : Obligations.EncodeOfDecode := by
  unfold Obligations.EncodeOfDecode
  intro bytes i rest h
  match bytes with
  | [] => cases h
  | b :: tail =>
    obtain ⟨k, c, rfl, hc, hlen, rfl, rfl⟩ | ⟨hrow, rfl⟩ := decode_cases h
    · obtain ⟨hwf, henc⟩ := encode_pushOfBytes hc (tail.take (k + 1)) (List.length_take_of_le hlen)
      exact ⟨hwf, by rw [henc, List.cons_append, List.take_append_drop]⟩
    · obtain ⟨hparts, hop⟩ := plainRows_lookup hrow
      exact ⟨Instr.wellFormed_plain hparts, by rw [encode_plain hparts, hop, List.singleton_append]⟩

/-! The immediate and the length (R91, R92). -/

/-- Settles O4: the Word read is the number the n bytes hold. -/
theorem pushImmediateIsBigEndian : Obligations.PushImmediateIsBigEndian := by
  unfold Obligations.PushImmediateIsBigEndian
  intro n bytes rest h1 h32 hlen
  obtain ⟨k, rfl⟩ := Nat.exists_eq_add_of_le' h1
  have hc : pushConstructors[k]? = some pushConstructors[k] := List.getElem?_eq_getElem h32
  have hnat := wordOfBytes_toNat bytes (hlen ▸ h32)
  refine ⟨_, wordOfBytes bytes, ?_, (pushConstructors_getElem? hc _).1, ?_, ?_⟩
  · rw [show 0x5F + (k + 1) = 0x60 + k by omega]
    exact decode_push hc bytes rest hlen
  · rw [hnat, bytesToNat_eq_sum, hlen]
  · rw [hnat, ← hlen]
    exact bytesToNat_lt bytes

/-- The width of the immediate, from the opcode byte alone. -/
theorem Instr.pushParts_width (i : Instr) : i.pushParts.map Prod.fst =
    if 0x60 ≤ i.opcode.toNat ∧ i.opcode.toNat ≤ 0x7F then some (i.opcode.toNat - 0x5F) else none := by
  match h : i.pushParts with
  | none => rw [if_neg (Instr.plainRow h).1]; rfl
  | some (n, imm) =>
    obtain ⟨hbyte, hn⟩ := Instr.pushByte h
    rw [if_pos hbyte, hn]
    rfl

open Sys2Proof.Laws in
/-- Every encoding starts with its opcode byte, which gives its length. -/
theorem encodedLength (i : Instr) : EncodedLength.Statement i := by
  match h : i.pushParts with
  | none => exact ⟨by rw [encode_plain h]; rfl, by rw [encode_plain h, instrLength, if_neg (Instr.plainRow h).1]; rfl⟩
  | some (n, imm) =>
    obtain ⟨hbyte, hn⟩ := Instr.pushByte h
    exact EncodedLength.of_pushParts i n imm h (by rw [instrLength, if_pos hbyte, hn, Nat.add_comm])

/-- Settles O5: the bytes read are the instruction's encoding, whose first byte gives its length and its immediate's width. -/
theorem lengthFromOpcodeByte : Obligations.LengthFromOpcodeByte := by
  unfold Obligations.LengthFromOpcodeByte
  intro b tail rest i h
  obtain ⟨-, henc⟩ := encodeOfDecode (b :: tail) i rest h
  obtain ⟨hhead, hlen⟩ := encodedLength i
  have hop : i.opcode = b := by simpa [List.head?_append, hhead] using congrArg List.head? henc
  subst hop
  exact ⟨by rw [← henc, List.length_append, hlen, instrLength], i.pushParts_width⟩

/-- Settles O3, by running the decoder on each. -/
theorem specBytesDecode : Obligations.SpecBytesDecode := by
  unfold Obligations.SpecBytesDecode
  decide

end Sys2Proof

namespace Sys2Proof.Machine

open Sys2Proof.Claims (r95Category)

/-! The class of a byte (R94 to R96). -/

theorem plainRows_category : ∀ r ∈ plainRows, inBlockCategory r.2 = r95Category .pushZero r.1.toNat := by decide

/-- The bytes of the rows without an immediate, as ranges. -/
theorem plainRows_bytes : plainRows.map (fun r => r.1.toNat) =
    List.range' 0x00 12 ++ List.range' 0x10 14 ++ [0x35] ++ List.range' 0x50 12 ++ [0x5E, 0x5F] ++ List.range' 0x80 32
    ++ List.range' 0xA0 5 ++ List.range' 0xF0 6 ++ [0xFA, 0xFD, 0xFF] := rfl

/-- A byte of the table of R95 that starts no PUSHn has a row. -/
theorem r95Category_of_no_row {b : Byte} (hpush : ¬ (0x60 ≤ b.toNat ∧ b.toNat ≤ 0x7F)) (hrow : plainRows.lookup b = none) :
    r95Category .pushZero b.toNat = none := by
  have hbyte : b.toNat ∉ plainRows.map (fun r => r.1.toNat) := by
    rw [List.lookup_eq_none_iff] at hrow
    rw [List.mem_map]
    rintro ⟨r, hr, hbr⟩
    exact bne_iff_ne.mp (hrow r hr) (BitVec.eq_of_toNat_eq hbr.symm)
  simp only [plainRows_bytes, List.mem_append, List.mem_range'_1, List.mem_cons, List.not_mem_nil, or_false] at hbyte
  rw [r95Category, if_neg (by omega), if_neg (by omega), if_neg (by omega), if_neg (by omega), if_neg (by omega)]

/-- The opcode table and the table of R95 agree on every byte where 0x5F is PUSH0. -/
theorem opcodeRow_category (b : Byte) : (opcodeRow b).bind inBlockCategory = r95Category .pushZero b.toNat := by
  rw [opcodeRow]
  by_cases hb : 0x60 ≤ b.toNat ∧ b.toNat ≤ 0x7F
  · have hr95 : r95Category .pushZero b.toNat = some .stackManip := by
      rw [r95Category, if_neg (by omega), if_neg (by omega), if_neg (by omega), if_neg (by omega), if_pos (.inr (by omega))]
    have hall : ∀ c ∈ pushConstructors, inBlockCategory (c 0) = some .stackManip := by decide
    have hk : b.toNat - 0x60 < pushConstructors.length := by change _ < 32; omega
    rw [if_pos hb, List.getElem?_eq_getElem hk, Option.map_some, Option.bind_some, hall _ (List.getElem_mem hk), hr95]
  · rw [if_neg hb]
    cases hrow : plainRows.lookup b with
    | none => exact (r95Category_of_no_row hb hrow).symm
    | some i => exact plainRows_category (b, i) (mem_plainRows_of_lookup hrow)

/-- PUSH0_MODE decides about the byte 0x5F alone (R94). -/
theorem r95Category_unassigned (n : Nat) :
    r95Category .unassigned n = if n = 0x5F then none else r95Category .pushZero n := by
  by_cases hn : n = 0x5F
  · subst hn; rfl
  · simp [r95Category, hn]

theorem inBlockByte_eq_r95Category (p : Params) (b : Byte) : inBlockByte p b = r95Category p.push0Mode b.toNat := by
  have hb : b = 0x5F ↔ b.toNat = 0x5F := (BitVec.toNat_inj (y := (0x5F : Byte))).symm
  rw [inBlockByte, opcodeRow_category]
  cases p.push0Mode with
  | unassigned => simp only [r95Category_unassigned, hb, and_true]
  | pushZero => simp

/-- Settles O6: the model's in-block map is the table of R95. -/
theorem decodeClassOfEveryByte : Obligations.DecodeClassOfEveryByte := by
  unfold Obligations.DecodeClassOfEveryByte
  intro p b
  rw [classify, inBlockByte_eq_r95Category] <;> rfl

theorem classify_unmapped {p : Params} {b : Byte} (hin : r95Category p.push0Mode b.toNat = none)
    (hext : p.extOpcodes.lookup b = none) :
    classify p b = if b ∈ p.notImplOpcodes then .notImpl else .unassigned := by
  simpa only [hin, hext] using decodeClassOfEveryByte p b

/-! A step before its instruction (R97, R99, R105; spec/44_control.md R220). -/

theorem turn_at_byte {s : State} {b : Byte} (hs : s.status = .running) (hb : s.code[s.pc]? = some b) :
    turn s = dispatchByte b s.counted := by
  simp only [turn, hs, runTurn, hb]

theorem turn_at_end {s : State} (hs : s.status = .running) (hb : s.code[s.pc]? = none) :
    turn s = .settled (.next (s.setStatus (.halted .success))) := by
  simp only [turn, hs, runTurn, hb]

theorem step_of_settled {s : State} {o : Host.Outcome State Fault Refusal} (h : turn s = .settled o) : step s = o := by
  rw [step, h]

/-- Settles O7: such a byte's class is notImpl or unassigned, and either class settles the step by its error. -/
theorem unmappedByteRaisesItsError : Obligations.UnmappedByteRaisesItsError := by
  unfold Obligations.UnmappedByteRaisesItsError
  intro s b e hs hb hin hext he
  have hsettled : turn s = .settled (.next (raise e s.counted)) := by
    rw [turn_at_byte hs hb, dispatchByte, State.counted_params, classify_unmapped hin hext, he]
    split_ifs <;> rfl
  rw [step_of_settled hsettled, raise, opByte_at_pc (s := s.counted) hb]
  rfl

/-! Progress. -/

/-- What a step has come to on the counted state s leads on: it is settled with a next state, or hands an instruction or an
external byte s itself. -/
inductive Turn.GoesOn (s : State) : Turn → Prop
  | settled (t : State) : GoesOn s (.settled (.next t))
  | perform (i : Instr) : GoesOn s (.perform i s)
  | performByte (b : Byte) : GoesOn s (.performByte b s)

theorem goesOn_gasCheck (cat : GasCategory) {s : State} {go : Turn} (h : go.GoesOn s) : (gasCheck cat s go).GoesOn s := by
  rw [gasCheck]
  split_ifs
  · exact .settled _
  · exact h

theorem goesOn_dispatchByte (b : Byte) (s : State) : (dispatchByte b s).GoesOn s := by
  rw [dispatchByte]
  split
  · exact .settled _
  · exact .settled _
  · refine goesOn_gasCheck _ ?_
    rw [fetchInBlock]
    split
    · exact .perform _
    · exact .settled _
  · refine goesOn_gasCheck _ ?_
    rw [fetchExternal]
    split
    · exact .perform _
    · exact .performByte _

/-- Every instruction performed on a running frame answers a next state. -/
theorem exec_answers (i : Instr) {s : State} (hs : s.status = .running) : ∃ t, exec i s = .next t := by
  by_cases hi : inBlockCategory i = none
  · exact (exec_external i s hi hs).imp fun _ => And.left
  · exact (exec_inBlock i s hi).imp fun _ => And.left

theorem step_answers_of_running {s : State} (hs : s.status = .running) : ∃ t, step s = .next t := by
  match hb : s.code[s.pc]? with
  | none => exact ⟨_, step_of_settled (turn_at_end hs hb)⟩
  | some b =>
    rw [step]
    have hgo : (turn s).GoesOn s.counted := turn_at_byte hs hb ▸ goesOn_dispatchByte b s.counted
    generalize turn s = act at hgo
    cases hgo with
    | settled t => exact ⟨t, rfl⟩
    | perform i =>
      obtain ⟨t, ht⟩ := exec_answers i (s := s.counted) hs
      exact ⟨debitAfter s.counted t, by simp only [ht, conclude_next]⟩
    | performByte b => exact ⟨_, conclude_next _ _⟩

/-- FRAME_EXIT finds a snapshot wherever there is one per call depth. -/
theorem step_answers_of_halted_inner {s : State} {x : Halt} (hs : s.status = .halted x) (hd : s.depth ≠ 0)
    (hsave : s.save.length = s.depth) : ∃ t, step s = .next t := by
  have hne : s.save ≠ [] := List.ne_nil_of_length_pos (by omega)
  have hturn : turn s = .settled (resumeCaller x s) := by simp only [turn, hs, if_neg hd]
  rw [step_of_settled hturn, resumeCaller, frameExit, List.getLast?_eq_some_getLast hne]
  exact ⟨_, rfl⟩

/-- Settles O59: a running frame always goes on, and in a good state a halted inner frame has a caller to resume. -/
theorem onlyEndedRunsStop : Obligations.OnlyEndedRunsStop := by
  unfold Obligations.OnlyEndedRunsStop
  refine ⟨fun s ⟨hd, hs⟩ => ?_, fun s hi hne => ?_⟩
  · match h : s.status with
    | .running => exact absurd h hs
    | .halted x => exact step_of_settled (by simp only [turn, h, if_pos hd])
  · match h : s.status with
    | .running => exact step_answers_of_running h
    | .halted x => exact step_answers_of_halted_inner h (fun hd => hne ⟨hd, by simp [h]⟩) hi.save_depth

end Sys2Proof.Machine
end

section
/-! Proofs for spec/40_alu_arith.md. What the statements share is in `alu2Rule` and `alu3Rule`: an instruction that is the common
ALU step (R118) with a function f meets the rule with any relation f meets. What remains is one lemma about each function. -/

namespace Sys2Proof.Machine

open Sys2Proof.Claims

/-! OutOfGas before the instruction (spec/44_control.md R222). -/

theorem classify_inBlock {p : Params} {b : Byte} {cat : GasCategory} (h : r95Category p.push0Mode b.toNat = some cat) :
    classify p b = .inBlock cat := by
  simpa only [h] using decodeClassOfEveryByte p b

theorem step_inBlock_outOfGas {s : State} {b : Byte} {cat : GasCategory} (hs : s.status = .running)
    (hb : s.code[s.pc]? = some b) (hclass : classify s.params b = .inBlock cat)
    (hgas : s.gas.toNat < s.params.gasCost.at cat) : step s = .next (raise .outOfGas s.counted) := by
  apply step_of_settled
  rw [turn_at_byte hs hb, dispatchByte, State.counted_params, hclass]
  exact if_pos hgas

theorem outOfGasFirst {op : Byte} {cat : GasCategory} (hcat : ∀ mode, r95Category mode op.toNat = some cat) :
    OutOfGasFirst op cat :=
  fun s hs hb hgas => step_inBlock_outOfGas hs hb (classify_inBlock (hcat s.params.push0Mode)) hgas

/-! The common ALU step (R118). -/

theorem alu2_cons (f : Word → Word → Word) (s : State) (a b : Word) (rest : List Word) (h : s.stack = a :: b :: rest)
    (hle : s.stack.length ≤ stackLimit) : alu2 f s = { s with stack := f a b :: rest, pc := s.pc + 1 } := by
  have hroom : rest.length ≠ stackLimit := by rw [h, List.length_cons, List.length_cons] at hle; omega
  rw [alu2, pop2Then_cons s _ a b rest h, pushResult_room _ _ hroom]
  rfl

theorem alu2_short (f : Word → Word → Word) (s : State) (h : s.stack.length < 2) :
    alu2 f s = raise .stackUnderflow (s.setStack []) := pop2Then_short s _ h

theorem alu3_cons (f : Word → Word → Word → Word) (s : State) (a b c : Word) (rest : List Word)
    (h : s.stack = a :: b :: c :: rest) (hle : s.stack.length ≤ stackLimit) :
    alu3 f s = { s with stack := f a b c :: rest, pc := s.pc + 1 } := by
  have hroom : rest.length ≠ stackLimit := by rw [h, List.length_cons, List.length_cons, List.length_cons] at hle; omega
  rw [alu3, pop3Then_cons s _ a b c rest h, pushResult_room _ _ hroom]
  rfl

theorem alu3_short (f : Word → Word → Word → Word) (s : State) (h : s.stack.length < 3) :
    alu3 f s = raise .stackUnderflow (s.setStack []) := pop3Then_short s _ h

/-- An instruction that is the ALU step with f meets the rule with every relation f meets. -/
theorem alu2Rule {i : Instr} {op : Byte} {f : Word → Word → Word} {R : Word → Word → Word → Prop}
    (hexec : ∀ s, exec i s = .next (alu2 f s)) (henc : encode i = [op])
    (hcat : ∀ mode, r95Category mode op.toNat = some .arithCompare) (hR : ∀ a b, R a b (f a b)) : Alu2Rule i op R := by
  refine ⟨henc, fun s a b rest hs hle => ⟨f a b, hR a b, ?_⟩, fun s hs => ?_, outOfGasFirst hcat⟩
  · rw [hexec, alu2_cons f s a b rest hs hle]
  · rw [hexec, alu2_short f s hs, State.setStack]

/-- The same with three operands. -/
theorem alu3Rule {i : Instr} {op : Byte} {f : Word → Word → Word → Word} {R : Word → Word → Word → Word → Prop}
    (hexec : ∀ s, exec i s = .next (alu3 f s)) (henc : encode i = [op])
    (hcat : ∀ mode, r95Category mode op.toNat = some .arithCompare) (hR : ∀ a b c, R a b c (f a b c)) :
    Alu3Rule i op R := by
  refine ⟨henc, fun s a b c rest hs hle => ⟨f a b c, hR a b c, ?_⟩, fun s hs => ?_, outOfGasFirst hcat⟩
  · rw [hexec, alu3_cons f s a b c rest hs hle]
  · rw [hexec, alu3_short f s hs, State.setStack]

/-! `W(·)` (spec/00_scope.md R9). -/

theorem wordOfNat_toNat (n : Nat) : (wordOfNat n).toNat = n % 2 ^ 256 := BitVec.toNat_ofNat n 256

/-- Nothing is lost of a number that is no larger than a Word. -/
theorem wordOfNat_toNat_of_le {n : Nat} {w : Word} (h : n ≤ w.toNat) : (wordOfNat n).toNat = n := by
  rw [wordOfNat_toNat, Nat.mod_eq_of_lt (h.trans_lt w.isLt)]

theorem wordOfInt_toNat (n : Int) : ((wordOfInt n).toNat : Int) = n % 2 ^ 256 := by
  rw [wordOfInt, BitVec.toNat_ofInt, Int.toNat_of_nonneg (Int.emod_nonneg _ (by decide))]
  norm_num

/-- A number smaller in magnitude than a signed Word is kept. -/
theorem wordOfInt_toInt_of_natAbs_lt {n : Int} {w : Word} (h : n.natAbs < w.toInt.natAbs) : (wordOfInt n).toInt = n := by
  have hge : -2 ^ 255 ≤ w.toInt := w.le_toInt
  have hlt : w.toInt < 2 ^ 255 := w.toInt_lt
  exact BitVec.toInt_ofInt_eq_self (by decide) (by omega) (by omega)

theorem toNat_ne_zero {w : Word} (h : w ≠ 0) : w.toNat ≠ 0 := (BitVec.toNat_inj (y := 0)).not.mpr h

theorem toInt_ne_zero {w : Word} (h : w ≠ 0) : w.toInt ≠ 0 := (BitVec.toInt_inj (y := 0)).not.mpr h

/-! Wrapping arithmetic (R121 to R123). -/

/-- Settles O12: each result is `W` of the exact one. -/
theorem addMulSubWrap : Obligations.AddMulSubWrap := by
  unfold Obligations.AddMulSubWrap
  exact ⟨alu2Rule (fun _ => rfl) rfl (fun _ => rfl) fun a b => wordOfNat_toNat (a.toNat + b.toNat),
    alu2Rule (fun _ => rfl) rfl (fun _ => rfl) fun a b => wordOfNat_toNat (a.toNat * b.toNat),
    alu2Rule (fun _ => rfl) rfl (fun _ => rfl) fun a b => wordOfInt_toNat (a.toNat - b.toNat)⟩

/-! Unsigned division (R124, R126). -/

theorem wordDiv_zero (a : Word) : wordDiv a 0 = 0 := rfl

theorem wordDiv_toNat (a : Word) {b : Word} (hb : b ≠ 0) : (wordDiv a b).toNat = a.toNat / b.toNat := by
  rw [wordDiv, if_neg (toNat_ne_zero hb), wordOfNat_toNat_of_le (Nat.div_le_self a.toNat b.toNat)]

theorem wordMod_zero (a : Word) : wordMod a 0 = 0 := rfl

theorem wordMod_toNat (a : Word) {b : Word} (hb : b ≠ 0) : (wordMod a b).toNat = a.toNat % b.toNat := by
  rw [wordMod, if_neg (toNat_ne_zero hb), wordOfNat_toNat_of_le (Nat.mod_le a.toNat b.toNat)]

/-- Settles O13: quotient and remainder are no larger than the dividend, so `W` keeps them. -/
theorem unsignedDivMod : Obligations.UnsignedDivMod := by
  unfold Obligations.UnsignedDivMod
  exact ⟨alu2Rule (fun _ => rfl) rfl (fun _ => rfl) fun a b => ⟨fun hb => hb ▸ wordDiv_zero a, wordDiv_toNat a⟩,
    alu2Rule (fun _ => rfl) rfl (fun _ => rfl) fun a b => ⟨fun hb => hb ▸ wordMod_zero a, wordMod_toNat a⟩⟩

/-! Signed division (R125, R127). -/

/-- The quotient rounded toward zero, by sign and magnitude. -/
theorem tdiv_eq_sign_mul_natAbs (a b : Int) : a.tdiv b = a.sign * b.sign * ((a.natAbs / b.natAbs : Nat) : Int) := by
  rw [← Int.sign_mul_natAbs (a.tdiv b), Int.sign_tdiv, Int.natAbs_tdiv]
  split_ifs with hlt
  · rw [Nat.div_eq_of_lt hlt, Nat.cast_zero, mul_zero, zero_mul]
  · rfl

theorem natAbs_sign_mul_le (a : Int) (n : Nat) : (a.sign * n).natAbs ≤ n := by
  rw [Int.natAbs_mul, Int.natAbs_natCast, Int.natAbs_sign]
  split_ifs <;> omega

theorem wordSdiv_zero (a : Word) : wordSdiv a 0 = 0 := rfl

theorem wordSdiv_eq (a : Word) {b : Word} (hb : b ≠ 0) :
    wordSdiv a b = wordOfInt (a.toInt.sign * b.toInt.sign * ((a.toInt.natAbs / b.toInt.natAbs : Nat) : Int)) := by
  rw [wordSdiv, if_neg (toInt_ne_zero hb), tdiv_eq_sign_mul_natAbs]

theorem wordSmod_zero (a : Word) : wordSmod a 0 = 0 := rfl

theorem wordSmod_toInt (a : Word) {b : Word} (hb : b ≠ 0) :
    (wordSmod a b).toInt = a.toInt.sign * ((a.toInt.natAbs % b.toInt.natAbs : Nat) : Int) ∧
      (wordSmod a b).toInt.natAbs < b.toInt.natAbs := by
  have hmod : a.toInt.natAbs % b.toInt.natAbs < b.toInt.natAbs := Nat.mod_lt _ (Int.natAbs_pos.mpr (toInt_ne_zero hb))
  have hlt := (natAbs_sign_mul_le a.toInt _).trans_lt hmod
  rw [wordSmod, if_neg (toInt_ne_zero hb), wordOfInt_toInt_of_natAbs_lt hlt]
  exact ⟨rfl, hlt⟩

/-- Settles O14: the quotient's sign and magnitude are the operands', and the remainder, smaller than the divisor, is kept by
`W`. -/
theorem signedDivMod : Obligations.SignedDivMod := by
  unfold Obligations.SignedDivMod
  exact ⟨alu2Rule (fun _ => rfl) rfl (fun _ => rfl) fun a b => ⟨fun hb => hb ▸ wordSdiv_zero a, wordSdiv_eq a⟩,
    alu2Rule (fun _ => rfl) rfl (fun _ => rfl) fun a b => ⟨fun hb => hb ▸ wordSmod_zero a, wordSmod_toInt a⟩⟩

/-! Modular arithmetic (R128, R129). -/

/-- A remainder is smaller than its modulus, so `W` keeps it. -/
theorem wordOfNat_mod_toNat (n : Nat) {c : Word} (hc : c ≠ 0) : (wordOfNat (n % c.toNat)).toNat = n % c.toNat :=
  wordOfNat_toNat_of_le (Nat.mod_lt n (Nat.pos_of_ne_zero (toNat_ne_zero hc))).le

theorem wordAddmod_zero (a b : Word) : wordAddmod a b 0 = 0 := rfl

theorem wordAddmod_toNat (a b : Word) {c : Word} (hc : c ≠ 0) :
    (wordAddmod a b c).toNat = (a.toNat + b.toNat) % c.toNat := by
  rw [wordAddmod, if_neg (toNat_ne_zero hc), wordOfNat_mod_toNat _ hc]

theorem wordMulmod_zero (a b : Word) : wordMulmod a b 0 = 0 := rfl

theorem wordMulmod_toNat (a b : Word) {c : Word} (hc : c ≠ 0) :
    (wordMulmod a b c).toNat = (a.toNat * b.toNat) % c.toNat := by
  rw [wordMulmod, if_neg (toNat_ne_zero hc), wordOfNat_mod_toNat _ hc]

/-- Settles O15: the sum and the product are taken in the naturals, and `W` keeps their remainders. -/
theorem exactModularArithmetic : Obligations.ExactModularArithmetic := by
  unfold Obligations.ExactModularArithmetic
  exact ⟨alu3Rule (fun _ => rfl) rfl (fun _ => rfl) fun a b c => ⟨fun hc => hc ▸ wordAddmod_zero a b, wordAddmod_toNat a b⟩,
    alu3Rule (fun _ => rfl) rfl (fun _ => rfl) fun a b c => ⟨fun hc => hc ▸ wordMulmod_zero a b, wordMulmod_toNat a b⟩⟩

/-! Exponentiation (R130). -/

/-- The power from the power at half the exponent. -/
theorem powStep_eq (a e : Nat) : powStep a (e % 2 == 1) (a ^ (e / 2) % 2 ^ 256) = a ^ e % 2 ^ 256 := by
  have hexp : a ^ e = a ^ (e / 2) * a ^ (e / 2) * (if e % 2 == 1 then a else 1) := by
    conv_lhs => rw [show e = e / 2 + e / 2 + e % 2 by omega, pow_add, pow_add]
    rcases Nat.mod_two_eq_zero_or_one e with h | h <;> simp [h]
  rw [hexp]
  exact ((Nat.mod_modEq _ _).mul (Nat.mod_modEq _ _)).mul_right _

/-- k rounds of square-and-multiply give the power for an exponent of at most k bits. -/
theorem powMod_eq (a : Nat) {e k : Nat} (h : e < 2 ^ k) : powMod a e k = a ^ e % 2 ^ 256 := by
  induction k generalizing e with
  | zero => rw [Nat.lt_one_iff.mp h]; rfl
  | succ k ih =>
    rw [powMod]
    split_ifs with h0
    · rw [h0]; rfl
    · rw [ih (by rw [pow_succ] at h; omega), powStep_eq]

/-- Settles O16: the exponent has at most 256 bits, so 256 rounds of squaring give the power. -/
theorem expIsPower : Obligations.ExpIsPower := by
  unfold Obligations.ExpIsPower
  refine alu2Rule (fun _ => rfl) rfl (fun _ => rfl) fun a b => ?_
  rw [wordExp, wordOfNat_toNat, powMod_eq a.toNat b.isLt, Nat.mod_mod]

/-! Sign extension (R131). -/

theorem wordSignextend_of_ge {k : Word} (x : Word) (hk : 31 ≤ k.toNat) : wordSignextend k x = x := if_pos hk

/-- Bit 8k+7 is the top bit of the part kept. -/
theorem wordSignextend_getLsbD {k : Word} (x : Word) (hk : k.toNat < 31) {j : Nat} (hj : j < 256) :
    (wordSignextend k x).getLsbD j = x.getLsbD (min j (8 * k.toNat + 7)) := by
  rw [wordSignextend, if_neg (by omega), BitVec.getLsbD_signExtend, decide_eq_true hj, Bool.true_and]
  split_ifs with hlow
  · rw [BitVec.getLsbD_extractLsb', decide_eq_true hlow, Bool.true_and, Nat.zero_add, min_eq_left (by omega)]
  · rw [BitVec.msb_eq_getLsbD_last, BitVec.getLsbD_extractLsb', decide_eq_true (by omega), Bool.true_and, Nat.zero_add,
      min_eq_right (by omega), Nat.add_sub_assoc (by decide)]

/-- Settles O17: the bits up to 8k+7 are kept, and those above are the kept part's sign bit. -/
theorem signextendCopiesSignBit : Obligations.SignextendCopiesSignBit := by
  unfold Obligations.SignextendCopiesSignBit
  exact alu2Rule (fun _ => rfl) rfl (fun _ => rfl) fun k x =>
    ⟨wordSignextend_of_ge x, fun hk _ hj => wordSignextend_getLsbD x hk hj⟩

end Sys2Proof.Machine
end

section
/-! Proofs for spec/41_alu_compare_bitwise.md, by `alu2Rule` and, for one operand, `alu1Rule`. What remains is one
lemma about each function. -/

namespace Sys2Proof.Machine

open Sys2Proof.Claims

/-! The common ALU step with one operand (spec/40_alu_arith.md R118). -/

theorem alu1_cons (f : Word → Word) (s : State) (a : Word) (rest : List Word) (h : s.stack = a :: rest)
    (hle : s.stack.length ≤ stackLimit) : alu1 f s = { s with stack := f a :: rest, pc := s.pc + 1 } := by
  have hroom : rest.length ≠ stackLimit := by rw [h, List.length_cons] at hle; omega
  rw [alu1, popThen_cons s _ a rest h, pushResult_room _ _ hroom]
  rfl

theorem alu1_nil (f : Word → Word) (s : State) (h : s.stack = []) : alu1 f s = raise .stackUnderflow s :=
  popThen_nil s _ h

/-- An instruction that is the one-operand ALU step with f meets the rule with every relation f meets. -/
theorem alu1Rule {i : Instr} {op : Byte} {f : Word → Word} {R : Word → Word → Prop}
    (hexec : ∀ s, exec i s = .next (alu1 f s)) (henc : encode i = [op])
    (hcat : ∀ mode, r95Category mode op.toNat = some .arithCompare) (hR : ∀ a, R a (f a)) : Alu1Rule i op R := by
  refine ⟨henc, fun s a rest hs hle => ⟨f a, hR a, ?_⟩, fun s hs => ?_, outOfGasFirst hcat⟩
  · rw [hexec, alu1_cons f s a rest hs hle]
  · rw [hexec, alu1_nil f s hs]

/-! Comparisons (R150 to R155). -/

theorem wordOfBool_decide (p : Prop) [Decidable p] : wordOfBool (decide p) = if p then 1 else 0 := by
  simp only [wordOfBool, decide_eq_true_eq]

/-- Two Words are equal when their unsigned values are. -/
theorem wordEq_eq (a b : Word) : wordEq a b = if a = b then 1 else 0 := by
  rw [wordEq, wordOfBool_decide]
  exact if_congr BitVec.toNat_inj rfl rfl

/-- Settles O18: each result is the Word of the comparison's truth. -/
theorem comparisonsPushTruth : Obligations.ComparisonsPushTruth := by
  unfold Obligations.ComparisonsPushTruth
  exact ⟨alu2Rule (fun _ => rfl) rfl (fun _ => rfl) fun a b => wordOfBool_decide (a.toNat < b.toNat),
    alu2Rule (fun _ => rfl) rfl (fun _ => rfl) fun a b => wordOfBool_decide (a.toNat > b.toNat),
    alu2Rule (fun _ => rfl) rfl (fun _ => rfl) fun a b => wordOfBool_decide (a.toInt < b.toInt),
    alu2Rule (fun _ => rfl) rfl (fun _ => rfl) fun a b => wordOfBool_decide (a.toInt > b.toInt),
    alu2Rule (fun _ => rfl) rfl (fun _ => rfl) wordEq_eq,
    alu1Rule (fun _ => rfl) rfl (fun _ => rfl) fun a => wordOfBool_decide (a.toNat = 0)⟩

/-! Bitwise logic (R156 to R159). -/

theorem wordNot_getLsbD (a : Word) {j : Nat} (hj : j < 256) : (wordNot a).getLsbD j = !a.getLsbD j := by
  rw [wordNot, BitVec.getLsbD_not, decide_eq_true hj, Bool.true_and]

/-- Settles O19: the bits of the operations on bit vectors, below the 256th for NOT. -/
theorem bitwiseBitByBit : Obligations.BitwiseBitByBit := by
  unfold Obligations.BitwiseBitByBit
  exact ⟨alu2Rule (fun _ => rfl) rfl (fun _ => rfl) fun _ _ _ _ => BitVec.getLsbD_and,
    alu2Rule (fun _ => rfl) rfl (fun _ => rfl) fun _ _ _ _ => BitVec.getLsbD_or,
    alu2Rule (fun _ => rfl) rfl (fun _ => rfl) fun _ _ _ _ => BitVec.getLsbD_xor,
    alu1Rule (fun _ => rfl) rfl (fun _ => rfl) fun a => ⟨fun _ hj => wordNot_getLsbD a hj, BitVec.toNat_not⟩⟩

/-! BYTE (R160). -/

theorem wordByte_of_ge {i : Word} (x : Word) (hi : 32 ≤ i.toNat) : wordByte i x = 0 := if_neg (Nat.not_lt.mpr hi)

/-- Byte i counted from the most significant is byte 31 - i counted from the least. -/
theorem wordByte_toNat {i : Word} (x : Word) (hi : i.toNat < 32) :
    (wordByte i x).toNat = x.toNat / 256 ^ (31 - i.toNat) % 256 := by
  have hpow : 2 ^ (248 - 8 * i.toNat) = 256 ^ (31 - i.toNat) := by
    rw [show 248 - 8 * i.toNat = 8 * (31 - i.toNat) by omega, pow_mul]; rfl
  rw [wordByte, if_pos hi, BitVec.toNat_setWidth_of_le (by decide), BitVec.extractLsb'_toNat,
    Nat.shiftRight_eq_div_pow, hpow]

/-! Shifts (R161 to R163). -/

theorem wordShl_of_ge {sh : Word} (v : Word) (hsh : 256 ≤ sh.toNat) : wordShl sh v = 0 := if_pos hsh

theorem wordShl_toNat {sh : Word} (v : Word) (hsh : sh.toNat < 256) :
    (wordShl sh v).toNat = v.toNat * 2 ^ sh.toNat % 2 ^ 256 := by
  rw [wordShl, if_neg (Nat.not_le.mpr hsh), wordOfNat_toNat]

theorem wordShr_of_ge {sh : Word} (v : Word) (hsh : 256 ≤ sh.toNat) : wordShr sh v = 0 := if_pos hsh

theorem wordShr_toNat {sh : Word} (v : Word) (hsh : sh.toNat < 256) : (wordShr sh v).toNat = v.toNat / 2 ^ sh.toNat := by
  rw [wordShr, if_neg (Nat.not_le.mpr hsh), wordOfNat_toNat_of_le (Nat.div_le_self _ _)]

/-- A signed Word divided by a positive number, rounded down, lies between the Word and 0, or -1 for a negative one, so `W`
keeps it. -/
theorem wordOfInt_ediv_toInt (v : Word) {m : Int} (hm : 0 < m) : (wordOfInt (v.toInt / m)).toInt = v.toInt / m := by
  have hge : -2 ^ 255 ≤ v.toInt := v.le_toInt
  have hlt : v.toInt < 2 ^ 255 := v.toInt_lt
  obtain ⟨hlow, hhigh⟩ : min v.toInt 0 ≤ v.toInt / m ∧ v.toInt / m ≤ max v.toInt (-1) := by
    obtain hneg | hnonneg := lt_or_ge v.toInt 0
    · exact ⟨min_le_of_left_le (Int.self_le_ediv_of_nonpos_of_nonneg hneg.le hm.le),
        le_max_of_le_right (Int.le_sub_one_of_lt (Int.ediv_neg_of_neg_of_pos hneg hm))⟩
    · exact ⟨min_le_of_right_le (Int.ediv_nonneg hnonneg hm.le), le_max_of_le_left (Int.ediv_le_self m hnonneg)⟩
  exact BitVec.toInt_ofInt_eq_self (by decide) (by omega) (by omega)

theorem wordSar_toInt {sh : Word} (v : Word) (hsh : sh.toNat < 256) :
    (wordSar sh v).toInt = v.toInt / 2 ^ sh.toNat := by
  have hpos : (0 : Int) < 2 ^ sh.toNat := by positivity
  rw [wordSar, if_neg (Nat.not_le.mpr hsh), Nat.cast_pow, Nat.cast_ofNat, Int.fdiv_eq_ediv_of_nonneg _ hpos.le,
    wordOfInt_ediv_toInt v hpos]

theorem wordSar_of_ge {sh : Word} (v : Word) (hsh : 256 ≤ sh.toNat) :
    (wordSar sh v).toInt = if v.toInt < 0 then -1 else 0 := by
  rw [wordSar, if_pos hsh]
  split_ifs
  · rfl
  · rfl

/-- Settles O20: each result below the limit of its index or shift, and at the limit and beyond. -/
theorem byteAndShifts : Obligations.ByteAndShifts := by
  unfold Obligations.ByteAndShifts
  exact ⟨alu2Rule (fun _ => rfl) rfl (fun _ => rfl) fun _ x => ⟨wordByte_toNat x, wordByte_of_ge x⟩,
    alu2Rule (fun _ => rfl) rfl (fun _ => rfl) fun _ v => ⟨wordShl_toNat v, wordShl_of_ge v⟩,
    alu2Rule (fun _ => rfl) rfl (fun _ => rfl) fun _ v => ⟨wordShr_toNat v, wordShr_of_ge v⟩,
    alu2Rule (fun _ => rfl) rfl (fun _ => rfl) fun _ v => ⟨wordSar_toInt v, wordSar_of_ge v⟩⟩

end Sys2Proof.Machine
end

section
/-! Proofs for spec/42_stack.md: what the stack controller does to a known stack, the instructions of the three numbered
families (PUSHn, DUPn, SWAPn) as one operation each, and the step of an in-block byte that PUSHn is stated for. -/

namespace Sys2Proof.Machine

open Sys2Proof.Claims

/-! The class and the gas check of the stack instructions (spec/30_encoding.md R94 to R96, spec/44_control.md R222). -/

theorem classify_inBlock_iff {p : Params} {b : Byte} {cat : GasCategory} :
    classify p b = .inBlock cat ↔ r95Category p.push0Mode b.toNat = some cat := by
  refine ⟨fun h => ?_, classify_inBlock⟩
  have hclass := decodeClassOfEveryByte p b
  rw [h] at hclass
  cases hcat : r95Category p.push0Mode b.toNat with
  | some c => simp only [hcat] at hclass; cases hclass; rfl
  | none =>
    simp only [hcat] at hclass
    split at hclass
    · cases hclass
    · split_ifs at hclass

/-- A number in the range of the stack instructions' bytes fits a byte. -/
theorem stackByte_toNat {n : Nat} (hhi : n ≤ 0x9F) : (BitVec.ofNat 8 n).toNat = n := by
  rw [BitVec.toNat_ofNat]
  omega

/-- The bytes of PUSHn, DUPn and SWAPn are in the table of R95 under either PUSH0_MODE. -/
theorem r95Category_stackManip (mode : Push0Mode) {n : Nat} (hlo : 0x60 ≤ n) (hhi : n ≤ 0x9F) :
    r95Category mode (BitVec.ofNat 8 n).toNat = some .stackManip := by
  rw [stackByte_toNat hhi, r95Category, if_neg (by omega), if_neg (by omega),
    if_neg (by omega), if_neg (by omega), if_pos (by omega)]

theorem outOfGasFirst_stackManip {n : Nat} (hlo : 0x60 ≤ n) (hhi : n ≤ 0x9F) :
    OutOfGasFirst (BitVec.ofNat 8 n) .stackManip :=
  outOfGasFirst fun mode => r95Category_stackManip mode hlo hhi

/-! POP (R184). -/

/-- Settles O21: the popped Word is dropped. -/
theorem popDiscardsTop : Obligations.PopDiscardsTop := by
  unfold Obligations.PopDiscardsTop
  refine ⟨rfl, fun s a rest hs => ?_, fun s hs => ?_, outOfGasFirst fun _ => rfl⟩
  · rw [exec, execPop, popThen_cons s _ a rest hs, State.setStack_eq, State.advance_eq]
  · rw [exec, execPop, popThen_nil s _ hs]

/-! PUSH0 (R185). -/

/-- `0x5F` is in the table of R95 exactly under PushZero (R94). -/
theorem r95Category_push0 (mode : Push0Mode) : r95Category mode 0x5F = some .stackManip ↔ mode = .pushZero := by
  cases mode <;> decide

theorem pushResult_full (v : Word) (s : State) (h : s.stack.length = stackLimit) :
    pushResult v s = raise .stackOverflow s := pushThen_full v s _ h

/-- Settles O22: PUSH0 is the push of the result 0, and its class is that of the table of R95. -/
theorem push0PushesZero : Obligations.Push0PushesZero := by
  unfold Obligations.Push0PushesZero
  have hclass (p : Params) : classify p 0x5F = .inBlock .stackManip ↔ p.push0Mode = .pushZero :=
    classify_inBlock_iff.trans (r95Category_push0 p.push0Mode)
  refine ⟨rfl, fun s hlt => ?_, fun s hfull => ?_, hclass, fun s hmode hs hb hgas => ?_⟩
  · rw [exec, execPush0, pushResult_room 0 s hlt.ne]
  · rw [exec, execPush0, pushResult_full 0 s hfull]
  · exact step_inBlock_outOfGas hs hb ((hclass s.params).mpr hmode) hgas

/-! PUSHn (R186). -/

theorem exec_push {i : Instr} {n : Nat} {imm : Word} (h : i.pushParts = some (n, imm)) (s : State) :
    exec i s = .next (pushImmediate n imm s) := by
  cases i <;> cases h
  all_goals rfl

theorem pushImmediate_cutOff (n : Nat) (imm : Word) (s : State) (h : s.code.length ≤ s.pc + n) :
    pushImmediate n imm s = raise .bytecodeBounds s := if_pos h

theorem pushImmediate_fits (n : Nat) (imm : Word) (s : State) (h : s.pc + n < s.code.length) :
    pushImmediate n imm s = pushThen imm s (State.advance (1 + n)) := if_neg (Nat.not_le.mpr h)

theorem pushImmediate_room (n : Nat) (imm : Word) (s : State) (h : s.pc + n < s.code.length)
    (hroom : s.stack.length ≠ stackLimit) :
    pushImmediate n imm s = { s with stack := imm :: s.stack, pc := s.pc + 1 + n } := by
  rw [pushImmediate_fits n imm s h, pushThen_room imm s _ hroom, State.setStack_eq, State.advance_eq, Nat.add_assoc]

theorem pushImmediate_full (n : Nat) (imm : Word) (s : State) (h : s.pc + n < s.code.length)
    (hfull : s.stack.length = stackLimit) : pushImmediate n imm s = raise .stackOverflow s := by
  rw [pushImmediate_fits n imm s h, pushThen_full imm s _ hfull]

/-! A step at an in-block byte with enough gas (spec/44_control.md R220). -/

theorem turn_inBlock {s : State} {b : Byte} {cat : GasCategory} (hs : s.status = .running)
    (hb : s.code[s.pc]? = some b) (hclass : classify s.params b = .inBlock cat)
    (hgas : s.params.gasCost.at cat ≤ s.gas.toNat) : turn s = fetchInBlock s.counted := by
  rw [turn_at_byte hs hb, dispatchByte, State.counted_params, hclass]
  exact if_neg (Nat.not_lt.mpr hgas)

section
variable {s : State} {b : Byte} {cat : GasCategory} (hs : s.status = .running) (hb : s.code[s.pc]? = some b)
  (hclass : classify s.params b = .inBlock cat) (hgas : s.params.gasCost.at cat ≤ s.gas.toNat)
include hs hb hclass hgas

theorem step_inBlock_decoded {i : Instr} {rest : List Byte} (hd : decode (s.code.drop s.pc) = .ok (i, rest)) :
    step s = conclude s.counted (exec i s.counted) := by
  rw [step, turn_inBlock hs hb hclass hgas, fetchInBlock, State.counted_code, State.counted_pc, hd]

theorem step_inBlock_undecoded {e : DecodeError} (hd : decode (s.code.drop s.pc) = .error e) :
    step s = .next (raise .bytecodeBounds s.counted) := by
  rw [step, turn_inBlock hs hb hclass hgas, fetchInBlock, State.counted_code, State.counted_pc, hd]

end

/-- The decoder rejects a PUSHn with fewer than n bytes after its opcode byte (spec/30_encoding.md R93). -/
theorem decode_truncated {b : Byte} {rest : List Byte} (hb : 0x60 ≤ b.toNat ∧ b.toNat ≤ 0x7F)
    (hlen : rest.length < b.toNat - 0x5F) : decode (b :: rest) = .error (.truncatedPush b) := by
  rw [decode, if_pos hb, decodePush, if_pos hlen]

section
variable {s : State} {n : Nat} (h1 : 1 ≤ n) (h32 : n ≤ 32) (hs : s.status = .running)
  (hb : s.code[s.pc]? = some (BitVec.ofNat 8 (0x5F + n))) (hgas : s.params.gasCost.stackManip ≤ s.gas.toNat)
include h1 h32 hs hb hgas

/-- A whole step of a PUSHn: the bytes after its opcode byte are the immediate, big-endian. -/
theorem step_push (hfit : s.pc + n < s.code.length) (hroom : s.stack.length < stackLimit) :
    ∃ (imm : Word) (t : State), step s = .next t ∧ t.stack = imm :: s.stack ∧ t.pc = s.pc + 1 + n ∧
      imm.toNat = ∑ j ∈ Finset.range n, ((s.code.drop (s.pc + 1)).getD j 0).toNat * 256 ^ (n - 1 - j) := by
  have hlen : ((s.code.drop (s.pc + 1)).take n).length = n := by
    rw [List.length_take, List.length_drop]
    omega
  obtain ⟨i, imm, hd, hparts, himm, -⟩ := pushImmediateIsBigEndian n _ ((s.code.drop (s.pc + 1)).drop n) h1 h32 hlen
  rw [List.take_append_drop, ← drop_at_pc hb] at hd
  have hclass := classify_inBlock (r95Category_stackManip s.params.push0Mode (n := 0x5F + n) (by omega) (by omega))
  have hstep : step s = .next (debitAfter s.counted { s.counted with stack := imm :: s.stack, pc := s.pc + 1 + n }) := by
    rw [step_inBlock_decoded hs hb hclass hgas hd, exec_push hparts, pushImmediate_room n imm s.counted hfit hroom.ne,
      conclude_next]
    rfl
  rw [debitAfter_only] at hstep
  refine ⟨imm, _, hstep, rfl, rfl, himm.trans (Finset.sum_congr rfl fun j hj => ?_)⟩
  rw [List.getD_eq_getElem?_getD, List.getElem?_take_of_lt (Finset.mem_range.mp hj), List.getD_eq_getElem?_getD]

/-- A whole step of a PUSHn that the end of the code cuts off. -/
theorem step_push_cutOff (hcut : s.code.length ≤ s.pc + n) : step s = .next (raise .bytecodeBounds s.counted) := by
  have hbyte : (BitVec.ofNat 8 (0x5F + n)).toNat = 0x5F + n := stackByte_toNat (by omega)
  have hd : decode (s.code.drop s.pc) = .error (.truncatedPush (BitVec.ofNat 8 (0x5F + n))) := by
    rw [drop_at_pc hb]
    exact decode_truncated (by omega) (by rw [List.length_drop]; omega)
  exact step_inBlock_undecoded hs hb (classify_inBlock (r95Category_stackManip _ (by omega) (by omega))) hgas hd

end

/-- Settles O23: the clauses on the instruction are those of `pushImmediate`, the clauses on a step those of the decoder. -/
theorem pushPushesImmediate : Obligations.PushPushesImmediate := by
  unfold Obligations.PushPushesImmediate
  refine ⟨fun i n imm h => ⟨fun s hfit hlt => ?_, fun s hcut => ?_, fun s hfit hfull => ?_⟩,
    fun n s h1 h32 hs hb hgas => ⟨step_push h1 h32 hs hb hgas, step_push_cutOff h1 h32 hs hb hgas⟩,
    fun n h1 h32 => outOfGasFirst_stackManip (by omega) (by omega)⟩
  · rw [exec_push h, pushImmediate_room n imm s hfit hlt.ne]
  · rw [exec_push h, pushImmediate_cutOff n imm s hcut]
  · rw [exec_push h, pushImmediate_full n imm s hfit hfull]

/-! DUPn (R187). -/

theorem dups_exec : dups.map (fun r => exec r.2) = dups.map fun r s => .next (dupThen r.1 s (State.advance 1)) := rfl

theorem exec_dup {n : Nat} {i : Instr} (h : (n, i) ∈ dups) (s : State) :
    exec i s = .next (dupThen n s (State.advance 1)) :=
  congrFun (List.map_inj_left.mp dups_exec (n, i) h) s

/-- The rows of DUPn: n, and the byte. -/
theorem dups_rows : ∀ r ∈ dups, (1 ≤ r.1 ∧ r.1 ≤ 16) ∧ encode r.2 = [BitVec.ofNat 8 (0x80 + (r.1 - 1))] := by decide

theorem dupSwapKind_eq_depthKind (s : State) : dupSwapKind s.params = depthKind s := by
  rw [dupSwapKind, depthKind]
  cases s.params.dupSwapError <;> rfl

/-- Settles O24: DUPn is the controller's dup(n), whose depth check passes on a full stack because n is at most 16. -/
theorem dupCopiesNth : Obligations.DupCopiesNth := by
  unfold Obligations.DupCopiesNth
  intro n i hi
  obtain ⟨⟨h1, h16⟩, henc⟩ := dups_rows (n, i) hi
  refine ⟨henc, fun s x hx hlt => ?_, fun s hshort => ?_, fun s hfull => ?_,
    outOfGasFirst_stackManip (by omega) (by omega)⟩
  · obtain ⟨hlen, -⟩ := List.getElem?_eq_some_iff.mp hx
    rw [exec_dup hi, dupThen_deep n s _ (by omega) (by omega), pushThen_room _ s _ hlt.ne,
      List.getD_eq_getElem?_getD, hx, Option.getD_some, State.setStack_eq, State.advance_eq]
  · rw [exec_dup hi, dupThen_shallow n s _ (.inr hshort), dupSwapKind_eq_depthKind]
  · rw [exec_dup hi, dupThen_deep n s _ (by omega) (by omega), pushThen_full _ s _ hfull]

/-! SWAPn (R188). -/

theorem swaps_exec : swaps.map (fun r => exec r.2) = swaps.map fun r s => .next (swapThen r.1 s (State.advance 1)) := rfl

theorem exec_swap {n : Nat} {i : Instr} (h : (n, i) ∈ swaps) (s : State) :
    exec i s = .next (swapThen n s (State.advance 1)) :=
  congrFun (List.map_inj_left.mp swaps_exec (n, i) h) s

/-- The rows of SWAPn: n, and the byte. -/
theorem swaps_rows : ∀ r ∈ swaps, (1 ≤ r.1 ∧ r.1 ≤ 16) ∧ encode r.2 = [BitVec.ofNat 8 (0x90 + (r.1 - 1))] := by decide

section
variable {n : Nat} {xs : List Word} {x y : Word} (hx : xs[0]? = some x) (hy : xs[n]? = some y)
include hx hy

theorem exchangeTop_getElem?_top (h0 : n ≠ 0) : (exchangeTop n xs)[0]? = some y := by
  obtain ⟨hlen, -⟩ := List.getElem?_eq_some_iff.mp hx
  rw [exchangeTop, List.getElem?_set_ne h0, List.getElem?_set_self hlen, List.getD_eq_getElem?_getD, hy, Option.getD_some]

theorem exchangeTop_getElem?_nth : (exchangeTop n xs)[n]? = some x := by
  obtain ⟨hlen, -⟩ := List.getElem?_eq_some_iff.mp hy
  rw [exchangeTop, List.getElem?_set_self (by rwa [List.length_set]), List.getD_eq_getElem?_getD, hx, Option.getD_some]

end

theorem exchangeTop_getElem?_other {n j : Nat} (xs : List Word) (h0 : j ≠ 0) (hn : j ≠ n) :
    (exchangeTop n xs)[j]? = xs[j]? := by
  rw [exchangeTop, List.getElem?_set_ne hn.symm, List.getElem?_set_ne h0.symm]

/-- Settles O25: SWAPn is the controller's swap(n). -/
theorem swapExchangesNth : Obligations.SwapExchangesNth := by
  unfold Obligations.SwapExchangesNth
  intro n i hi
  obtain ⟨⟨h1, h16⟩, henc⟩ := swaps_rows (n, i) hi
  have h0 : n ≠ 0 := by omega
  refine ⟨henc, fun s x y hx hy => ?_, fun s hshort => ?_, outOfGasFirst_stackManip (by omega) (by omega)⟩
  · obtain ⟨hlen, -⟩ := List.getElem?_eq_some_iff.mp hy
    refine ⟨exchangeTop n s.stack, ?_, exchangeTop_length n s.stack, exchangeTop_getElem?_top hx hy h0,
      exchangeTop_getElem?_nth hx hy, fun j => exchangeTop_getElem?_other s.stack⟩
    rw [exec_swap hi, swapThen_deep n s _ h0 hlen, State.setStack_eq, State.advance_eq]
  · rw [exec_swap hi, swapThen_shallow n s _ (.inr hshort), dupSwapKind_eq_depthKind]

/-! The laws of the stack controller (R189). -/

theorem pushAll_fits (ws : List Word) (s : State) (k : State → State) (h : s.stack.length + ws.length ≤ stackLimit) :
    pushAll ws s k = k (s.setStack (ws.reverse ++ s.stack)) := by
  induction ws generalizing s with
  | nil => rfl
  | cons w ws ih =>
    rw [List.length_cons] at h
    rw [pushAll, pushThen_room w s _ (by omega), ih _ (by rw [State.setStack_stack, List.length_cons]; omega),
      List.reverse_cons, List.append_assoc]
    rfl

theorem popAll_append (xs rest popped : List Word) (s : State) (k : List Word → State → State)
    (h : s.stack = xs ++ rest) : popAll xs.length popped s k = k (popped ++ xs) (s.setStack rest) := by
  induction xs generalizing popped s with
  | nil => rw [List.append_nil, ← List.nil_append rest, ← h]; rfl
  | cons x xs ih =>
    rw [List.length_cons, popAll, popThen_cons s _ x (xs ++ rest) h, ih _ _ rfl, List.append_assoc]
    rfl

/-- Settles O26: the pushes leave the reversed words on the stack, and the pops take just those off again. -/
theorem stackIsLastInFirstOut : Obligations.StackIsLastInFirstOut := by
  unfold Obligations.StackIsLastInFirstOut
  refine ⟨fun ws s k hfit => ?_, popThen_nil, fun s v k => pushThen_full v s k⟩
  rw [pushAll_fits ws s _ hfit, ← List.length_reverse, popAll_append ws.reverse s.stack [] _ k rfl]
  rfl

end Sys2Proof.Machine
end

section
/-! Proofs for spec/43_memory_ops.md, and for PC, GAS and JUMPDEST of spec/44_control.md. MSTORE and MSTORE8 are one
operation, `storeOp`, which leaves `Memory.written`; MLOAD and MCOPY leave memory grown over a range (`Memory.covering`), MCOPY
with the source's bytes written on it (`Memory.copied`). -/

namespace Sys2Proof.Machine

open Sys2Proof.Claims

/-! Memory grown over a range that may be empty (spec/20_memory.md R63, R64). -/

/-- The memory an access to `[off, off+n)` that fits leaves before it writes. -/
def Memory.covering (m : Memory) (off n : Nat) : Memory := m.grow (if n = 0 then m.size else roundUp32 (off + n))

theorem Memory.covering_zero (m : Memory) (off : Nat) : m.covering off 0 = m := Memory.grow_of_le le_rfl

theorem Memory.covering_of_ne_zero (m : Memory) (off : Nat) {n : Nat} (h0 : n ≠ 0) :
    m.covering off n = m.grow (roundUp32 (off + n)) := by rw [Memory.covering, if_neg h0]

theorem extendThen_of_fits (off n : Nat) (s : State) (k : State → State) (h : Fits s off n) :
    extendThen off n s k = k (s.setMem (s.mem.covering off n)) := by
  by_cases h0 : n = 0
  · subst h0; rw [extendThen_empty, Memory.covering_zero]; rfl
  · rw [extendThen_fits off n s k h0 (h.resolve_left h0), Memory.covering_of_ne_zero _ _ h0]

theorem readThen_of_fits (off n : Nat) (s : State) (k : List Byte → State → State) (h : Fits s off n) :
    readThen off n s k = k (s.mem.readBytes off n) (s.setMem (s.mem.covering off n)) := readThen_fits off n s k h

theorem Memory.covering_size (m : Memory) (off n : Nat) : (m.covering off n).size = grownSize m.size off n := by
  by_cases h0 : n = 0
  · subst h0; rw [Memory.covering_zero, grownSize, if_pos rfl]
  · rw [Memory.covering_of_ne_zero m off h0, Memory.grow_roundUp32_size m off n h0]

@[simp] theorem Memory.covering_read (m : Memory) (off n a : Nat) : (m.covering off n).read a = m.read a :=
  Memory.grow_read m _ a

@[simp] theorem Memory.covering_readBytes (m : Memory) (off n off' n' : Nat) :
    (m.covering off n).readBytes off' n' = m.readBytes off' n' := rfl

theorem Memory.covering_wf {m : Memory} (h : m.wf = true) (off n : Nat) : (m.covering off n).wf = true := by
  refine Memory.grow_wf h ?_
  split_ifs
  · exact ((Memory.wf_iff m).mp h).right
  · exact roundUp32_mod (off + n)

theorem Memory.covering_covers (m : Memory) (off : Nat) {n : Nat} (h0 : n ≠ 0) : off + n ≤ (m.covering off n).size := by
  rw [Memory.covering_of_ne_zero m off h0]
  exact Memory.grow_covers m off n

/-! MLOAD (R200). -/

/-- The Word of the 32 bytes at an offset, byte 0 the most significant (R68). -/
theorem wordOfBytes_readBytes_toNat (m : Memory) (off : Nat) : (wordOfBytes (m.readBytes off 32)).toNat =
    ∑ j ∈ Finset.range 32, (m.read (off + j)).toNat * 256 ^ (31 - j) := by
  have hlen : (m.readBytes off 32).length = 32 := Memory.readBytes_length m off 32
  rw [wordOfBytes_toNat _ hlen.le, bytesToNat_eq_sum, hlen]
  refine Finset.sum_congr rfl fun j hj => ?_
  rw [List.getD_eq_getElem _ _ (hlen.symm ▸ Finset.mem_range.mp hj), Memory.readBytes_getElem]

theorem exec_mload_fits (s : State) (off : Word) (rest : List Word) (h : s.stack = off :: rest)
    (hle : s.stack.length ≤ stackLimit) (hlim : off.toNat + 32 ≤ s.params.memLimit) :
    exec .mload s = .next { s with
      stack := wordOfBytes (s.mem.readBytes off.toNat 32) :: rest, mem := s.mem.covering off.toNat 32, pc := s.pc + 1 } := by
  have hroom : rest.length ≠ stackLimit := by rw [h, List.length_cons] at hle; omega
  rw [exec, execMload, popThen_cons s _ off rest h, readThen_of_fits _ _ (s.setStack rest) _ (.inr hlim),
    pushResult_room _ _ hroom]
  rfl

/-- Settles O29: the pushed Word is made of the bytes before the growth, which changes none of them. -/
theorem mloadReadsBigEndian : Obligations.MloadReadsBigEndian := by
  unfold Obligations.MloadReadsBigEndian
  refine ⟨rfl, fun s off rest h hle hlim => ?_, fun s off rest h hlim => ?_, fun s h => ?_, outOfGasFirst fun _ => rfl⟩
  · exact ⟨_, _, exec_mload_fits s off rest h hle hlim, wordOfBytes_readBytes_toNat s.mem off.toNat,
      Memory.covering_size _ _ _, Memory.covering_read _ _ _⟩
  · rw [exec, execMload, popThen_cons s _ off rest h, readThen,
      extendThen_exceeded _ _ (s.setStack rest) _ (by decide) hlim, State.setStack_eq]
  · rw [exec, execMload, popThen_nil s _ h]

/-! MSTORE and MSTORE8 (R201, R202). -/

/-- The store of bytes made of the second operand at the offset that is the first. -/
def storeOp (bytes : Word → List Byte) (s : State) : State :=
  pop2Then s fun off v t => writeThen off.toNat (bytes v) t (State.advance 1)

theorem exec_mstore (s : State) : exec .mstore s = .next (storeOp wordToBytes s) := rfl

/-- The one byte MSTORE8 stores of a Word. -/
def lowByte (v : Word) : List Byte := [v.extractLsb' 0 8]

theorem lowByte_ne_nil (v : Word) : lowByte v ≠ [] := List.cons_ne_nil _ _

theorem lowByte_getD_toNat (v : Word) : ((lowByte v).getD 0 0).toNat = v.toNat % 256 := BitVec.extractLsb'_toNat 0 8 v

theorem exec_mstore8 (s : State) : exec .mstore8 s = .next (storeOp lowByte s) := rfl

section
variable (bytes : Word → List Byte) (s : State)

theorem storeOp_short (h : s.stack.length < 2) : storeOp bytes s = raise .stackUnderflow { s with stack := [] } :=
  pop2Then_short s _ h

variable {off v : Word} {rest : List Word} (h : s.stack = off :: v :: rest) (h0 : bytes v ≠ [])
include h h0

theorem storeOp_fits (hlim : off.toNat + (bytes v).length ≤ s.params.memLimit) :
    storeOp bytes s = { s with stack := rest, mem := s.mem.written off.toNat (bytes v), pc := s.pc + 1 } := by
  rw [storeOp, pop2Then_cons s _ off v rest h, writeThen_fits _ _ (s.setStack rest) _ h0 hlim]
  rfl

theorem storeOp_exceeded (hlim : s.params.memLimit < off.toNat + (bytes v).length) :
    storeOp bytes s = raise .outOfGas { s with stack := rest } := by
  rw [storeOp, pop2Then_cons s _ off v rest h, writeThen_exceeded _ _ (s.setStack rest) _ h0 hlim, State.setStack_eq]

end

theorem wordToBytes_ne_nil (v : Word) : wordToBytes v ≠ [] :=
  List.ne_nil_of_length_pos (by rw [wordToBytes_length]; decide)

theorem wordToBytes_getD (v : Word) {j : Nat} (hj : j < 32) : (wordToBytes v).getD j 0 = v.extractLsb' (248 - 8 * j) 8 := by
  rw [List.getD_eq_getElem _ _ (by rwa [wordToBytes_length]), wordToBytes_getElem v j hj]

/-- Settles O30: the memory written holds the Word's bytes at its offset. -/
theorem mstoreWritesBigEndian : Obligations.MstoreWritesBigEndian := by
  unfold Obligations.MstoreWritesBigEndian
  refine ⟨rfl, fun s off v rest h hwf hlim => ?_, fun s off v rest h hlim => ?_, fun s h => ?_,
    outOfGasFirst fun _ => rfl⟩
  · have hlen : (wordToBytes v).length = 32 := wordToBytes_length v
    refine ⟨s.mem.written off.toNat (wordToBytes v), ?_, Memory.written_wf hwf _ _, ?_, fun j hj => ?_, fun a ha => ?_⟩
    · rw [exec_mstore, storeOp_fits wordToBytes s h (wordToBytes_ne_nil v) (by rwa [hlen])]
    · rw [Memory.written_size _ _ (wordToBytes_ne_nil v), hlen]
    · rw [Memory.written_read_inside hwf _ _ (by rwa [hlen]), wordToBytes_getD v hj]
    · exact Memory.written_read_outside hwf _ _ (by rwa [hlen])
  · rw [exec_mstore, storeOp_exceeded wordToBytes s h (wordToBytes_ne_nil v) (by rwa [wordToBytes_length])]
  · rw [exec_mstore, storeOp_short _ s h]

/-- Settles O31: the memory written holds one byte, the Word's low one, and the range of one byte is its offset. -/
theorem mstore8WritesLowByte : Obligations.Mstore8WritesLowByte := by
  unfold Obligations.Mstore8WritesLowByte
  refine ⟨rfl, fun s off v rest h hwf hlim => ?_, fun s off v rest h hlim => ?_, fun s h => ?_,
    outOfGasFirst fun _ => rfl⟩
  · refine ⟨s.mem.written off.toNat (lowByte v), ?_, Memory.written_wf hwf _ _,
      Memory.written_size _ _ (lowByte_ne_nil v), ?_, fun a ha => ?_⟩
    · rw [exec_mstore8, storeOp_fits lowByte s h (lowByte_ne_nil v) hlim]
    · have hbyte : (s.mem.written off.toNat (lowByte v)).read (off.toNat + 0) = (lowByte v).getD 0 0 :=
        Memory.written_read_inside hwf _ _ Nat.zero_lt_one
      rw [← lowByte_getD_toNat, ← hbyte, Nat.add_zero]
    · exact Memory.written_read_outside hwf _ (lowByte v) (Nat.lt_or_gt_of_ne ha)
  · rw [exec_mstore8, storeOp_exceeded lowByte s h (lowByte_ne_nil v) hlim]
  · rw [exec_mstore8, storeOp_short _ s h]

/-! MCOPY (R204). -/

/-- The memory an MCOPY leaves: grown over both ranges, with the source's old bytes written at the destination. -/
def Memory.copied (m : Memory) (dst src n : Nat) : Memory :=
  (m.covering (max dst src) n).writeBytes dst (m.readBytes src n)

theorem Memory.copied_zero (m : Memory) (dst src : Nat) : m.copied dst src 0 = m := by
  rw [Memory.copied, Memory.covering_zero]; rfl

theorem Memory.copied_size (m : Memory) (dst src n : Nat) :
    (m.copied dst src n).size = grownSize m.size (max dst src) n := by
  rw [Memory.copied, Memory.writeBytes_size, Memory.covering_size]

/-- The growth over both ranges covers the destination. -/
theorem Memory.covering_covers_dst (m : Memory) (dst src : Nat) {n : Nat} (h0 : n ≠ 0) :
    dst + (m.readBytes src n).length ≤ (m.covering (max dst src) n).size := by
  have hcov := m.covering_covers (max dst src) h0
  rw [Memory.readBytes_length]
  omega

section
variable {m : Memory} (hwf : m.wf = true) (dst src n : Nat)
include hwf

theorem Memory.copied_wf : (m.copied dst src n).wf = true := by
  by_cases h0 : n = 0
  · subst h0; rwa [Memory.copied_zero]
  · exact Memory.writeBytes_wf (Memory.covering_wf hwf _ n) _ (m.covering_covers_dst dst src h0)

theorem Memory.copied_read (a : Nat) : (m.copied dst src n).read a =
    if dst ≤ a ∧ a < dst + n then m.read (src + (a - dst)) else m.read a := by
  by_cases h0 : n = 0
  · subst h0
    rw [Memory.copied_zero, if_neg (by omega)]
  · rw [Memory.copied, Memory.read_writeBytes (Memory.covering_wf hwf _ n) _ (m.covering_covers_dst dst src h0),
      Memory.readBytes_length, Memory.covering_read]
    split_ifs with ha
    · rw [List.getD_eq_getElem _ _ (by rw [Memory.readBytes_length]; omega), Memory.readBytes_getElem]
    · rfl

theorem Memory.copied_read_inside {j : Nat} (hj : j < n) : (m.copied dst src n).read (dst + j) = m.read (src + j) := by
  rw [Memory.copied_read hwf, if_pos ⟨by omega, by omega⟩, Nat.add_sub_cancel_left]

theorem Memory.copied_read_outside {a : Nat} (ha : a < dst ∨ dst + n ≤ a) : (m.copied dst src n).read a = m.read a := by
  rw [Memory.copied_read hwf, if_neg (by omega)]

end

theorem exec_mcopy_fits (s : State) (dst src n : Word) (rest : List Word) (h : s.stack = dst :: src :: n :: rest)
    (hfit : Fits s (max dst.toNat src.toNat) n.toNat) :
    exec .mcopy s = .next { s with
      stack := rest, mem := s.mem.copied dst.toNat src.toNat n.toNat, pc := s.pc + 1 } := by
  rw [exec, execMcopy, pop3Then_cons s _ dst src n rest h, extendThen_of_fits _ _ (s.setStack rest) _ hfit,
    State.setMem_mem, Memory.covering_readBytes]
  rfl

/-- Settles O32: the bytes written are the source's before the copy, so the ranges may overlap. -/
theorem mcopyIsCopyThroughTemporary : Obligations.McopyIsCopyThroughTemporary := by
  unfold Obligations.McopyIsCopyThroughTemporary
  refine ⟨rfl, fun s dst src n rest h hwf hfit => ?_, fun s dst src n rest h h0 hlim => ?_, fun s h => ?_,
    outOfGasFirst fun _ => rfl⟩
  · exact ⟨_, exec_mcopy_fits s dst src n rest h hfit, Memory.copied_wf hwf _ _ _, Memory.copied_size _ _ _ _,
      fun j => Memory.copied_read_inside hwf _ _ _, fun a => Memory.copied_read_outside hwf _ _ _⟩
  · rw [exec, execMcopy, pop3Then_cons s _ dst src n rest h,
      extendThen_exceeded _ _ (s.setStack rest) _ h0.ne' hlim, State.setStack_eq]
  · rw [exec, execMcopy, pop3Then_short s _ h, State.setStack_eq]

/-! A step of an in-block instruction without an immediate, and its debit (spec/44_control.md R220, R223). -/

theorem step_plain {s : State} {i : Instr} {cat : GasCategory} (hplain : i.pushParts = none) (hs : s.status = .running)
    (hb : s.code[s.pc]? = some i.opcode) (hclass : classify s.params i.opcode = .inBlock cat)
    (hgas : s.params.gasCost.at cat ≤ s.gas.toNat) : step s = conclude s.counted (exec i s.counted) :=
  step_inBlock_decoded hs hb hclass hgas (drop_at_pc hb ▸ decode_plain hplain _)

theorem chargeGas_eq (cat : GasCategory) (s : State) : chargeGas cat s = { s with gas := gasAfter s cat } := by
  rw [chargeGas, gasAfter]
  split_ifs <;> rfl

/-- The debit cannot wrap: it only lowers the gas. -/
theorem gasAfter_toNat (s : State) (cat : GasCategory) : (gasAfter s cat).toNat =
    if s.params.gasDebit.at cat then s.gas.toNat - s.params.gasCost.at cat else s.gas.toNat := by
  rw [gasAfter]
  split_ifs
  · rw [BitVec.toNat_ofNat]
    exact Nat.mod_eq_of_lt ((Nat.sub_le _ _).trans_lt s.gas.isLt)
  · rfl

/-- An in-block instruction that raised nothing is debited its category's cost. -/
theorem debitAfter_inBlock {s t : State} {cat : GasCategory} (hclass : classify s.params s.opByte = .inBlock cat)
    (ht : t.status = .running) (hdepth : t.depth = s.depth) : debitAfter s t = { t with gas := gasAfter t cat } := by
  rw [debitAfter, if_pos ⟨ht, hdepth⟩, gasCategory, hclass]
  exact chargeGas_eq cat t

/-! MSIZE, PC and GAS (R203; spec/44_control.md R229, R230). -/

theorem exec_msize (s : State) : exec .msize s = .next (pushResult (BitVec.ofNat 256 s.mem.size) s) := rfl

theorem exec_pc (s : State) : exec .pc s = .next (pushResult (BitVec.ofNat 256 s.pc) s) := rfl

theorem exec_gas (s : State) : exec .gas s = .next (pushResult (s.gas.setWidth 256) s) := by
  rw [exec, execGas, wordOfNat, BitVec.ofNat_toNat]

/-- A length in whole quanta stays one modulo 2^256. -/
theorem Memory.size_word_mod_32 {m : Memory} (h : m.wf = true) : (BitVec.ofNat 256 m.size).toNat % 32 = 0 := by
  obtain ⟨-, hmod⟩ := (Memory.wf_iff m).mp h
  rw [BitVec.toNat_ofNat, Nat.mod_mod_of_dvd _ (by decide), hmod]

/-- A whole step of GAS: what it pushes is the gas its own debit has not touched. -/
theorem step_gas {s : State} (hs : s.status = .running) (hb : s.code[s.pc]? = some 0x5A)
    (hlt : s.stack.length < stackLimit) (hgas : s.params.gasCost.controlFlow ≤ s.gas.toNat) :
    step s = .next { s with
      stack := s.gas.setWidth 256 :: s.stack, pc := s.pc + 1, count := s.count + 1, gas := gasAfter s .controlFlow } := by
  have hclass : classify s.params 0x5A = .inBlock .controlFlow := classify_inBlock rfl
  have hop : classify s.counted.params s.counted.opByte = .inBlock .controlFlow := by
    rwa [State.counted_opByte, opByte_at_pc hb]
  rw [step_plain (i := .gas) rfl hs hb hclass hgas, exec_gas, pushResult_room _ s.counted hlt.ne, conclude_next]
  exact congrArg _ (debitAfter_inBlock hop hs rfl)

/-- Settles O37: three of the four are the push of a result, and the debit of GAS follows its push. -/
theorem msizeJumpdestPcGas : Obligations.MsizeJumpdestPcGas := by
  unfold Obligations.MsizeJumpdestPcGas
  refine ⟨rfl, rfl, rfl, rfl, fun _ => rfl, fun s hlt => ?_, fun _ => Memory.size_word_mod_32, fun s hfull => ?_,
    fun s hs hb hlt hgas =>
      ⟨_, step_gas hs hb hlt hgas, rfl, rfl, gasAfter_toNat s .controlFlow⟩,
    outOfGasFirst fun _ => rfl, outOfGasFirst fun _ => rfl, outOfGasFirst fun _ => rfl, outOfGasFirst fun _ => rfl⟩
  · exact ⟨by rw [exec_msize, pushResult_room _ s hlt.ne], by rw [exec_pc, pushResult_room _ s hlt.ne],
      by rw [exec_gas, pushResult_room _ s hlt.ne]⟩
  · exact ⟨by rw [exec_msize, pushResult_full _ s hfull], by rw [exec_pc, pushResult_full _ s hfull],
      by rw [exec_gas, pushResult_full _ s hfull]⟩

end Sys2Proof.Machine
end

section
/-! Proofs for spec/44_control.md, the instructions: the jump check against the rule's opcode positions (R224), STOP, JUMP and
JUMPI, RETURN and REVERT. -/

namespace Sys2Proof.Machine

open Sys2Proof.Claims

/-! Opcode positions (R224). -/

theorem instrLength_pos (b : Byte) : 0 < instrLength b := by
  unfold instrLength
  split_ifs <;> omega

theorem opcodeAt_cons_zero (b : Byte) (rest : List Byte) (skip : Nat) :
    opcodeAt (b :: rest) skip 0 = true ↔ skip = 0 := by
  cases skip <;> simp [opcodeAt]

theorem opcodeAt_cons_succ (b : Byte) (rest : List Byte) (skip t : Nat) :
    opcodeAt (b :: rest) skip (t + 1) = opcodeAt rest (if skip = 0 then instrLength b - 1 else skip - 1) t := by
  cases skip <;> rfl

/-- The first byte after the immediates is an opcode. -/
theorem opcodeAt_skip {code : List Byte} {skip : Nat} (h : skip < code.length) : opcodeAt code skip skip = true := by
  induction code generalizing skip with
  | nil => simp at h
  | cons b rest ih =>
    cases skip with
    | zero => rfl
    | succ skip => exact ih (Nat.lt_of_succ_lt_succ h)

/-- The reading of a code goes from an opcode position on to the one an instruction's length past it. -/
theorem opcodeAt_next {code : List Byte} {skip p : Nat} {b : Byte} (h : opcodeAt code skip p = true)
    (hb : code[p]? = some b) (hlt : p + instrLength b < code.length) : opcodeAt code skip (p + instrLength b) = true := by
  induction code generalizing skip p with
  | nil => simp at hb
  | cons c rest ih =>
    rw [List.length_cons] at hlt
    cases p with
    | zero =>
      obtain rfl : c = b := Option.some.inj hb
      obtain ⟨m, hm⟩ := Nat.exists_eq_succ_of_ne_zero (instrLength_pos c).ne'
      rw [opcodeAt_cons_zero] at h
      rw [hm, Nat.zero_add, opcodeAt_cons_succ, if_pos h, hm]
      exact opcodeAt_skip (code := rest) (skip := m) (by omega)
    | succ p =>
      rw [opcodeAt_cons_succ] at h
      rw [Nat.add_right_comm, opcodeAt_cons_succ]
      exact ih h hb (by omega)

theorem lt_of_opcodeAt_drop {code : List Byte} {t o skip : Nat} (h : opcodeAt (code.drop o) skip t = true) :
    o < code.length := by
  by_contra hge
  rw [List.drop_of_length_le (not_lt.mp hge), opcodeAt] at h
  cases h

/-- Read from offset o with some immediates to skip before the next opcode position of the whole code, it meets only opcode
positions of the whole code. -/
theorem opcodePosition_of_opcodeAt_drop {code : List Byte} {t o skip : Nat} (h : opcodeAt (code.drop o) skip t = true)
    (hnext : o + skip < code.length → OpcodePosition code (o + skip)) : OpcodePosition code (o + t) := by
  induction t generalizing o skip with
  | zero =>
    have ho := lt_of_opcodeAt_drop h
    rw [List.drop_eq_getElem_cons ho, opcodeAt_cons_zero] at h
    subst h
    exact hnext ho
  | succ t ih =>
    have ho := lt_of_opcodeAt_drop h
    rw [List.drop_eq_getElem_cons ho, opcodeAt_cons_succ] at h
    rw [← Nat.add_assoc, Nat.add_right_comm]
    refine ih h fun hlt => ?_
    split_ifs at hlt ⊢ with h0
    · subst h0
      have hpos := instrLength_pos code[o]
      have hlen : o + 1 + (instrLength code[o] - 1) = o + instrLength code[o] := by omega
      rw [hlen] at hlt ⊢
      exact .next o code[o] (hnext ho) (List.getElem?_eq_getElem ho) hlt
    · have hskip : o + 1 + (skip - 1) = o + skip := by omega
      rw [hskip] at hlt ⊢
      exact hnext hlt

theorem isOpcodePosition_iff (code : List Byte) (t : Nat) : isOpcodePosition code t = true ↔ OpcodePosition code t := by
  constructor
  · intro h
    have hpos := opcodePosition_of_opcodeAt_drop (code := code) (o := 0) h .zero
    rwa [Nat.zero_add] at hpos
  · intro h
    induction h with
    | zero hne => exact opcodeAt_skip hne
    | next p b _ hb hlt ih => exact opcodeAt_next ih hb hlt

/-- Settles O33: the reading of the code and the rule's inductive set have the same opcode positions. -/
theorem jumpTargetsAreValidTargets : Obligations.JumpTargetsAreValidTargets := by
  unfold Obligations.JumpTargetsAreValidTargets
  intro s t
  simp only [validJump, ValidTarget, Bool.and_eq_true, Bool.or_eq_true, decide_eq_true_eq, beq_iff_eq,
    isOpcodePosition_iff, and_assoc]

/-! STOP (R225). -/

theorem exec_stop (s : State) : exec .stop s = .next { s with
    returndata := if s.params.stopClearsReturndata then [] else s.returndata
    pc := s.code.length } := by
  rw [exec, execStop]
  split_ifs <;> rfl

/-- Settles O34: both values of the parameter. -/
theorem stopEndsTheCode : Obligations.StopEndsTheCode := by
  unfold Obligations.StopEndsTheCode
  exact ⟨rfl, exec_stop, outOfGasFirst fun _ => rfl⟩

/-! JUMP and JUMPI (R226, R227). -/

theorem jumpTo_valid {s : State} {t : Word} (h : ValidTarget s t.toNat) : jumpTo t s = s.setPc t.toNat :=
  if_pos ((jumpTargetsAreValidTargets s t.toNat).mpr h)

theorem jumpTo_invalid {s : State} {t : Word} (h : ¬ ValidTarget s t.toNat) :
    jumpTo t s = raise .invalidJumpDestination s :=
  if_neg ((jumpTargetsAreValidTargets s t.toNat).not.mpr h)

/-- Settles O35: the model's jump check is the rule's. -/
theorem jumpGoesToValidTarget : Obligations.JumpGoesToValidTarget := by
  unfold Obligations.JumpGoesToValidTarget
  refine ⟨rfl, fun s t rest h hv => ?_, fun s t rest h hv => ?_, fun s h => ?_, outOfGasFirst fun _ => rfl⟩
  · rw [exec, execJump, popThen_cons s _ t rest h, jumpTo_valid (s := s.setStack rest) hv]
    rfl
  · rw [exec, execJump, popThen_cons s _ t rest h, jumpTo_invalid (s := s.setStack rest) hv, State.setStack_eq]
  · rw [exec, execJump, popThen_nil s _ h]

theorem isNonzero_iff (c : Word) : isNonzero c = true ↔ c.toNat ≠ 0 := bne_iff_ne

section
variable {s : State} {t c : Word} {rest : List Word} (h : s.stack = t :: c :: rest)
include h

theorem exec_jumpi_taken (hc : c.toNat ≠ 0) : exec .jumpi s = .next (jumpTo t (s.setStack rest)) := by
  rw [exec, execJumpi, pop2Then_cons s _ t c rest h, if_pos ((isNonzero_iff c).mpr hc)]

theorem exec_jumpi_not_taken (hc : c.toNat = 0) : exec .jumpi s = .next { s with stack := rest, pc := s.pc + 1 } := by
  rw [exec, execJumpi, pop2Then_cons s _ t c rest h, if_neg ((isNonzero_iff c).not.mpr (not_not.mpr hc))]
  rfl

end

/-- Settles O36: a taken JUMPI is the jump of JUMP, and one not taken checks nothing. -/
theorem jumpiChecksOnlyTakenTarget : Obligations.JumpiChecksOnlyTakenTarget := by
  unfold Obligations.JumpiChecksOnlyTakenTarget
  refine ⟨rfl, fun s t c rest h => ⟨fun hc hv => ?_, fun hc hv => ?_, exec_jumpi_not_taken h⟩, fun s h => ?_,
    outOfGasFirst fun _ => rfl⟩
  · rw [exec_jumpi_taken h hc, jumpTo_valid (s := s.setStack rest) hv]
    rfl
  · rw [exec_jumpi_taken h hc, jumpTo_invalid (s := s.setStack rest) hv, State.setStack_eq]
  · rw [exec, execJumpi, pop2Then_short s _ h, State.setStack_eq]

/-! RETURN and REVERT (R231, R232). -/

theorem Memory.readBytes_getElem? (m : Memory) (off : Nat) {n j : Nat} (hj : j < n) :
    (m.readBytes off n)[j]? = some (m.read (off + j)) := by
  have hlen : j < (m.readBytes off n).length := by rwa [Memory.readBytes_length]
  rw [List.getElem?_eq_getElem hlen, Memory.readBytes_getElem]

theorem readThen_of_not_fits (off n : Nat) (s : State) (k : List Byte → State → State) (h : ¬ Fits s off n) :
    readThen off n s k = raise .outOfGas s := by
  obtain ⟨h0, hlim⟩ := not_or.mp h
  exact extendThen_exceeded off n s _ h0 (not_le.mp hlim)

/-- RETURN and REVERT up to their end, which is k of the size and the bytes read. -/
def captureOp (k : Word → List Byte → State → State) (s : State) : State :=
  pop2Then s fun off n t => readThen off.toNat n.toNat t (k n)

section
variable (k : Word → List Byte → State → State) (s : State)

theorem captureOp_short (h : s.stack.length < 2) : captureOp k s = raise .stackUnderflow { s with stack := [] } :=
  pop2Then_short s _ h

variable {off n : Word} {rest : List Word} (h : s.stack = off :: n :: rest)
include h

theorem captureOp_fits (hfit : Fits s off.toNat n.toNat) : captureOp k s = k n (s.mem.readBytes off.toNat n.toNat)
    { s with stack := rest, mem := s.mem.covering off.toNat n.toNat } := by
  rw [captureOp, pop2Then_cons s _ off n rest h, readThen_of_fits _ _ (s.setStack rest) _ hfit]
  rfl

theorem captureOp_exceeded (hfit : ¬ Fits s off.toNat n.toNat) :
    captureOp k s = raise .outOfGas { s with stack := rest } := by
  rw [captureOp, pop2Then_cons s _ off n rest h, readThen_of_not_fits _ _ (s.setStack rest) _ hfit, State.setStack_eq]

end

/-- The end of RETURN. -/
def returnWith (_ : Word) (data : List Byte) (s : State) : State := (s.setReturndata data).toEnd

theorem exec_ret (s : State) : exec .ret s = .next (captureOp returnWith s) := rfl

/-- Settles O38: the bytes read are those before the growth, which changes none of them. -/
theorem returnCapturesMemory : Obligations.ReturnCapturesMemory := by
  unfold Obligations.ReturnCapturesMemory
  refine ⟨rfl, fun s off n rest h hfit => ?_, fun s off n rest h hfit => ?_, fun s h => ?_, outOfGasFirst fun _ => rfl⟩
  · refine ⟨s.mem.covering off.toNat n.toNat, s.mem.readBytes off.toNat n.toNat, ?_, Memory.covering_size _ _ _,
      Memory.covering_read _ _ _, Memory.readBytes_length _ _ _, fun j => Memory.readBytes_getElem? _ _⟩
    rw [exec_ret, captureOp_fits returnWith s h hfit]
    rfl
  · rw [exec_ret, captureOp_exceeded returnWith s h hfit]
  · rw [exec_ret, captureOp_short returnWith s h]

/-- The end of REVERT. -/
def revertWith (n : Word) (data : List Byte) (s : State) : State :=
  raise (if n.toNat = 0 then .revertWithoutData else .revertWithData data)
    { s with returndata := if s.params.revertSetsReturndata then data else s.returndata }

/-- The model's own end of REVERT, which chooses between two states and two raises. -/
theorem revertWith_eq (n : Word) (data : List Byte) (s : State) : revertWith n data s =
    let t := if s.params.revertSetsReturndata then s.setReturndata data else s
    if n.toNat = 0 then raise .revertWithoutData t else raise (.revertWithData data) t := by
  dsimp only [revertWith]
  split_ifs <;> rfl

theorem exec_revert (s : State) : exec .revert s = .next (captureOp revertWith s) := by
  rw [funext fun n => funext fun data => funext (revertWith_eq n data)]
  rfl

/-- Settles O39: both sizes, none and some, and both values of the parameter. -/
theorem revertHaltsWithData : Obligations.RevertHaltsWithData := by
  unfold Obligations.RevertHaltsWithData
  refine ⟨rfl, fun s off n rest h hfit => ?_, fun s off n rest h hfit => ?_, fun s h => ?_, outOfGasFirst fun _ => rfl⟩
  · refine ⟨s.mem.covering off.toNat n.toNat, s.mem.readBytes off.toNat n.toNat, ?_, Memory.covering_size _ _ _,
      Memory.covering_read _ _ _, Memory.readBytes_length _ _ _, fun j => Memory.readBytes_getElem? _ _⟩
    rw [exec_revert, captureOp_fits revertWith s h hfit, revertWith]
  · rw [exec_revert, captureOp_exceeded revertWith s h hfit]
  · rw [exec_revert, captureOp_short revertWith s h]

end Sys2Proof.Machine
end

section
/-! Proofs for spec/44_control.md, the program counter: where an in-block instruction leaves it (R233), and the implicit halt
at the end of the code (R221). -/

namespace Sys2Proof.Machine

open Sys2Proof.Claims

/-! The default advance (R233). -/

/-- If the frame has not halted, its program counter is pc. -/
def RunsOnAt (pc : Nat) (t : State) : Prop := t.status = .running → t.pc = pc

theorem runsOnAt_raise (pc : Nat) (e : ErrorKind) (t : State) : RunsOnAt pc (raise e t) := nofun

section
variable {s0 s : State} (h : Within s0 s) {pc : Nat}
include h

theorem Within.runsOnAt_advance (n : Nat) : RunsOnAt (s0.pc + n) (s.advance n) := fun _ => by rw [State.advance_pc, h.pc]

theorem runsOnAt_push (v : Word) (n : Nat) : RunsOnAt (s0.pc + n) (pushThen v s (State.advance n)) :=
  within_push h v _ (fun t _ => runsOnAt_raise _ _ t) fun _ ht => ht.runsOnAt_advance n

theorem runsOnAt_pop (k : Word → State → State) (hk : ∀ a t, Within s0 t → RunsOnAt pc (k a t)) :
    RunsOnAt pc (popThen s k) :=
  within_pop h k (fun t _ => runsOnAt_raise pc _ t) hk

theorem runsOnAt_pop2 (k : Word → Word → State → State) (hk : ∀ a b t, Within s0 t → RunsOnAt pc (k a b t)) :
    RunsOnAt pc (pop2Then s k) :=
  runsOnAt_pop h _ fun a _ ht => runsOnAt_pop ht _ (hk a)

theorem runsOnAt_read (off n : Nat) (k : List Byte → State → State) (hk : ∀ bs t, Within s0 t → RunsOnAt pc (k bs t)) :
    RunsOnAt pc (readThen off n s k) :=
  within_read h off n k (fun t _ => runsOnAt_raise pc _ t) hk

end

section
variable (s : State)

theorem runsOnAt_alu1 (f : Word → Word) : RunsOnAt (s.pc + 1) (alu1 f s) :=
  runsOnAt_pop (.refl s) _ fun _ _ ht => runsOnAt_push ht _ 1

theorem runsOnAt_alu2 (f : Word → Word → Word) : RunsOnAt (s.pc + 1) (alu2 f s) :=
  runsOnAt_pop2 (.refl s) _ fun _ _ _ ht => runsOnAt_push ht _ 1

theorem runsOnAt_alu3 (f : Word → Word → Word → Word) : RunsOnAt (s.pc + 1) (alu3 f s) :=
  runsOnAt_pop2 (.refl s) _ fun _ _ _ ht => runsOnAt_pop ht _ fun _ _ ht => runsOnAt_push ht _ 1

theorem runsOnAt_pushImmediate (n : Nat) (imm : Word) : RunsOnAt (s.pc + (1 + n)) (pushImmediate n imm s) := by
  rw [pushImmediate]
  split_ifs
  · exact runsOnAt_raise _ _ s
  · exact runsOnAt_push (.refl s) imm (1 + n)

theorem runsOnAt_dup (n : Nat) : RunsOnAt (s.pc + 1) (dupThen n s (State.advance 1)) :=
  dupThen_elim n s _ (fun _ => runsOnAt_raise _ _ s) (fun _ _ => runsOnAt_raise _ _ s) fun _ _ _ _ => rfl

theorem runsOnAt_swap (n : Nat) : RunsOnAt (s.pc + 1) (swapThen n s (State.advance 1)) :=
  swapThen_elim n s _ (fun _ => runsOnAt_raise _ _ s) fun _ _ _ => rfl

theorem runsOnAt_mload :
    RunsOnAt (s.pc + 1) (popThen s fun off t => readThen off.toNat 32 t fun bytes t' => pushResult (wordOfBytes bytes) t') :=
  runsOnAt_pop (.refl s) _ fun _ _ ht => runsOnAt_read ht _ _ _ fun _ _ ht => runsOnAt_push ht _ 1

theorem runsOnAt_store (bytes : Word → List Byte) : RunsOnAt (s.pc + 1) (storeOp bytes s) :=
  runsOnAt_pop2 (.refl s) _ fun _ _ _ ht =>
    within_write ht _ _ _ (fun t _ => runsOnAt_raise _ _ t) fun _ ht => ht.runsOnAt_advance 1

end

theorem exec_mcopy_runsOnAt {s t : State} (h : exec .mcopy s = .next t) : RunsOnAt (s.pc + 1) t := by
  cases h
  refine runsOnAt_pop2 (.refl s) _ fun _ _ _ ht => runsOnAt_pop ht _ fun _ _ ht => ?_
  exact within_extend ht _ _ _ (fun t _ => runsOnAt_raise _ _ t) fun _ ht _ _ => congrArg (· + 1) ht.pc

/-- REVERT never runs on, so any program counter will do. -/
theorem exec_revert_runsOnAt {s t : State} (h : exec .revert s = .next t) (pc : Nat) : RunsOnAt pc t := by
  cases (exec_revert s).symm.trans h
  exact runsOnAt_pop2 (.refl s) _ fun _ _ _ ht => runsOnAt_read ht _ _ _ fun _ _ _ => runsOnAt_raise pc _ _

/-- The in-block instructions that do not end by the default advance. -/
def transferInstrs : List Instr := [.stop, .ret, .jump, .jumpi]

/-- Every other in-block instruction without an immediate moves one byte on. -/
theorem exec_plain_runsOnAt (i : Instr) (s t : State) (hi : inBlockCategory i ≠ none) (hplain : i.pushParts = none)
    (htr : i ∉ transferInstrs) (h : exec i s = .next t) : RunsOnAt (s.pc + 1) t := by
  cases i with
  | add | mul | sub | div | sdiv | mod | smod | exp | signextend => cases h; exact runsOnAt_alu2 s _
  | lt | gt | slt | sgt | eq | and | or | xor | byte | shl | shr | sar => cases h; exact runsOnAt_alu2 s _
  | iszero | not => cases h; exact runsOnAt_alu1 s _
  | addmod | mulmod => cases h; exact runsOnAt_alu3 s _
  | pc | msize | gas | push0 => cases h; exact runsOnAt_push (.refl s) _ 1
  | push1 | push2 | push3 | push4 | push5 | push6 | push7 | push8 | push9 | push10 | push11 | push12 => cases hplain
  | push13 | push14 | push15 | push16 | push17 | push18 | push19 | push20 | push21 | push22 => cases hplain
  | push23 | push24 | push25 | push26 | push27 | push28 | push29 | push30 | push31 | push32 => cases hplain
  | dup1 | dup2 | dup3 | dup4 | dup5 | dup6 | dup7 | dup8 => cases h; exact runsOnAt_dup s _
  | dup9 | dup10 | dup11 | dup12 | dup13 | dup14 | dup15 | dup16 => cases h; exact runsOnAt_dup s _
  | swap1 | swap2 | swap3 | swap4 | swap5 | swap6 | swap7 | swap8 => cases h; exact runsOnAt_swap s _
  | swap9 | swap10 | swap11 | swap12 | swap13 | swap14 | swap15 | swap16 => cases h; exact runsOnAt_swap s _
  | pop => cases h; exact runsOnAt_pop (.refl s) _ fun _ _ ht => ht.runsOnAt_advance 1
  | jumpdest => cases h; exact (Within.refl s).runsOnAt_advance 1
  | mload => cases h; exact runsOnAt_mload s
  | mstore => cases h; exact runsOnAt_store s wordToBytes
  | mstore8 => cases h; exact runsOnAt_store s lowByte
  | mcopy => exact exec_mcopy_runsOnAt h
  | revert => exact exec_revert_runsOnAt h _
  | stop | ret | jump | jumpi => exact absurd (by decide) htr
  | calldataload | sload | sstore | log0 | log1 | log2 | log3 | log4 | selfdestruct => exact absurd rfl hi
  | create | call | callcode | delegatecall | create2 | staticcall => exact absurd rfl hi

/-- Every in-block instruction but those of `transferInstrs` moves past its own bytes. -/
theorem exec_runsOnAt (i : Instr) (s t : State) (hi : inBlockCategory i ≠ none) (htr : i ∉ transferInstrs)
    (h : exec i s = .next t) : RunsOnAt (s.pc + (encode i).length) t := by
  match hp : i.pushParts with
  | none =>
    rw [encode_plain hp]
    exact exec_plain_runsOnAt i s t hi hp htr h
  | some (n, imm) =>
    rw [exec_push hp] at h
    rw [encode_push hp, List.length_cons, natToBytes_length, Nat.add_comm n, ← Host.Outcome.next.inj h]
    exact runsOnAt_pushImmediate s n imm

/-! The end of the code and the target of a jump (R225 to R227, R231). -/

theorem runsOnAt_jumpTo (w : Word) (s : State) : RunsOnAt w.toNat (jumpTo w s) := by
  rw [jumpTo]
  split_ifs
  · exact fun _ => rfl
  · exact runsOnAt_raise _ _ s

section
variable {s t : State}

theorem exec_stop_pc (h : exec .stop s = .next t) : t.pc = s.code.length := by
  cases (exec_stop s).symm.trans h
  rfl

theorem exec_ret_runsOnAt (h : exec .ret s = .next t) : RunsOnAt s.code.length t := by
  cases (exec_ret s).symm.trans h
  exact runsOnAt_pop2 (.refl s) _ fun _ _ _ ht => runsOnAt_read ht _ _ _ fun _ _ ht _ => congrArg List.length ht.code

theorem exec_jump_runsOnAt (h : exec .jump s = .next t) (hrun : t.status = .running) :
    ∃ w rest, s.stack = w :: rest ∧ t.pc = w.toNat := by
  match hs : s.stack with
  | [] =>
    rw [exec, execJump, popThen_nil s _ hs] at h
    cases h
    cases hrun
  | w :: rest =>
    rw [exec, execJump, popThen_cons s _ w rest hs] at h
    cases h
    exact ⟨w, rest, rfl, runsOnAt_jumpTo w _ hrun⟩

theorem exec_jumpi_runsOnAt (h : exec .jumpi s = .next t) (hrun : t.status = .running) :
    ∃ w c rest, s.stack = w :: c :: rest ∧ t.pc = if c.toNat = 0 then s.pc + 1 else w.toNat := by
  match hs : s.stack with
  | [] | [_] =>
    rw [exec, execJumpi, pop2Then_short s _ (by simp [hs])] at h
    cases h
    cases hrun
  | w :: c :: rest =>
    refine ⟨w, c, rest, rfl, ?_⟩
    split_ifs with hc
    · cases (exec_jumpi_not_taken hs hc).symm.trans h
      rfl
    · cases (exec_jumpi_taken hs hc).symm.trans h
      exact runsOnAt_jumpTo w _ hrun

end

/-- Settles O40: by default an instruction advances, four transfer control, and an error is latched where it was raised. -/
theorem defaultAdvance : Obligations.DefaultAdvance := by
  unfold Obligations.DefaultAdvance
  intro i s t hi hs h
  refine ⟨fun hrun => ⟨?_, ?_, ?_, fun hstop hret hjump hjumpi => ?_⟩, fun hhalted => ?_⟩
  · rintro (rfl | rfl)
    · exact exec_stop_pc h
    · exact exec_ret_runsOnAt h hrun
  · rintro rfl
    exact exec_jump_runsOnAt h hrun
  · rintro rfl
    exact exec_jumpi_runsOnAt h hrun
  · exact exec_runsOnAt i s t hi (by simp [transferInstrs, hstop, hret, hjump, hjumpi]) h hrun
  · obtain ⟨u, hu, heffect⟩ := exec_inBlock i s hi
    obtain rfl : u = t := Host.Outcome.next.inj (hu.symm.trans h)
    obtain ⟨hstatus, -⟩ | ⟨_, -, -, hpc, -⟩ := heffect.ending
    · exact absurd (hstatus.trans hs) hhalted
    · exact hpc

/-! The implicit halt (R221). -/

theorem exec_inBlock_code {i : Instr} {s t : State} (hi : inBlockCategory i ≠ none) (h : exec i s = .next t) :
    t.code = s.code := by
  rw [(inBlockFrame i s t hi h).1]

/-- Settles O9: no byte stands at a program counter past the end, and STOP and RETURN leave the code as it is. -/
theorem implicitHaltAtEndOfCode : Obligations.ImplicitHaltAtEndOfCode := by
  unfold Obligations.ImplicitHaltAtEndOfCode
  refine ⟨fun s hs hend => ?_, fun s t h => ?_, fun s t _ h hrun => ?_⟩
  · exact step_of_settled (turn_at_end hs (List.getElem?_eq_none hend))
  · rw [exec_stop_pc h, exec_inBlock_code (by decide) h]
  · rw [exec_ret_runsOnAt h hrun, exec_inBlock_code (by decide) h]

end Sys2Proof.Machine
end

section
/-! Proofs for spec/44_control.md, the sequencer: which instruction a step runs (R220), the gas check before it (R222), the
debit after it (R223), and the debit of a CREATE or CREATE2 that resumes (spec/45_frames_external.md R255, R256). -/

namespace Sys2Proof.Machine

open Sys2Proof.Claims

/-! External bytes: the rows of the opcode table, and the bytes outside it (spec/30_encoding.md R98). -/

theorem externals_rows : ∀ r ∈ plainExternals ++ calls ++ creates, externalRow r.2 = some r.1 ∧ r.1.opcode = r.2 := by decide

theorem plainRows_external :
    ∀ r ∈ plainRows, inBlockCategory r.2 = none → (r.2, r.1) ∈ plainExternals ++ calls ++ creates := by decide

theorem externalRow_eq_some_iff {b : Byte} {i : Instr} :
    externalRow b = some i ↔ (i, b) ∈ plainExternals ++ calls ++ creates := by
  refine ⟨fun h => ?_, fun h => (externals_rows (i, b) h).1⟩
  obtain ⟨hrow, hcat⟩ := Option.filter_eq_some_iff.mp h
  rw [beq_iff_eq] at hcat
  rw [opcodeRow] at hrow
  split_ifs at hrow
  · have hpush : ∀ c ∈ pushConstructors, inBlockCategory (c 0) ≠ none := by decide
    obtain ⟨c, hc, rfl⟩ := Option.map_eq_some_iff.mp hrow
    exact absurd hcat (hpush c (List.mem_of_getElem? hc))
  · exact plainRows_external (b, i) (mem_plainRows_of_lookup hrow) hcat

theorem externalRow_eq_none {b : Byte} (h : ∀ i, (i, b) ∉ plainExternals ++ calls ++ creates) : externalRow b = none :=
  Option.eq_none_iff_forall_ne_some.mpr fun i hi => h i (externalRow_eq_some_iff.mp hi)

/-! A step at an external byte, before and after the gas check (R220, R222). -/

section
variable {s : State} {b : Byte} {cat : GasCategory} (hs : s.status = .running) (hb : s.code[s.pc]? = some b)
  (hclass : classify s.params b = .ext cat)
include hs hb hclass

theorem turn_external : turn s = gasCheck cat s.counted (fetchExternal b s.counted) := by
  rw [turn_at_byte hs hb, dispatchByte, State.counted_params, hclass]

theorem step_external_outOfGas (hgas : s.gas.toNat < s.params.gasCost.at cat) :
    step s = .next (raise .outOfGas s.counted) :=
  step_of_settled ((turn_external hs hb hclass).trans (if_pos hgas))

variable (hgas : s.params.gasCost.at cat ≤ s.gas.toNat)
include hgas

theorem turn_external_paid : turn s = fetchExternal b s.counted :=
  (turn_external hs hb hclass).trans (if_neg (Nat.not_lt.mpr hgas))

theorem step_external_row {i : Instr} (hrow : externalRow b = some i) :
    step s = conclude s.counted (exec i s.counted) := by
  rw [step, turn_external_paid hs hb hclass hgas, fetchExternal, hrow]

theorem step_external_unit (hrow : externalRow b = none) :
    step s = conclude s.counted (.next (externalOp b s.counted)) := by
  rw [step, turn_external_paid hs hb hclass hgas, fetchExternal, hrow]

end

/-- Settles O8: the instruction of an in-block byte is the decoded one, that of an external byte its row. -/
theorem stepRunsDecodedInstruction : Obligations.StepRunsDecodedInstruction := by
  unfold Obligations.StepRunsDecodedInstruction
  intro s b cat hs hb hgas
  exact ⟨fun hclass i rest hd => step_inBlock_decoded hs hb hclass hgas hd,
    fun hclass i rest _ hi => step_external_row hs hb hclass hgas (externalRow_eq_some_iff.mpr hi),
    fun hclass hi => step_external_unit hs hb hclass hgas (externalRow_eq_none hi)⟩

/-! What the decoder makes of an in-block byte (spec/30_encoding.md R90, R93). -/

theorem opcode_of_decode {b : Byte} {tail rest : List Byte} {i : Instr} (h : decode (b :: tail) = .ok (i, rest)) :
    i.opcode = b := by
  obtain ⟨k, c, rfl, hc, -, rfl, -⟩ | ⟨hrow, -⟩ := decode_cases h
  · exact (pushConstructors_getElem? hc _).2
  · exact (plainRows_lookup hrow).2

/-- It rejects no in-block byte but that of a PUSH cut off. -/
theorem cutOff_of_decode_error {p : Params} {b : Byte} {cat : GasCategory} {tail : List Byte} {e : DecodeError}
    (hclass : classify p b = .inBlock cat) (h : decode (b :: tail) = .error e) :
    (0x60 ≤ b.toNat ∧ b.toNat ≤ 0x7F) ∧ tail.length < b.toNat - 0x5F := by
  rw [decode] at h
  by_cases hpush : 0x60 ≤ b.toNat ∧ b.toNat ≤ 0x7F
  · rw [if_pos hpush, decodePush] at h
    split_ifs at h with hlen
    · exact ⟨hpush, hlen⟩
    · have hk : b.toNat - 0x5F - 1 < pushConstructors.length := by change _ < 32; omega
      rw [List.getElem?_eq_getElem hk] at h
      cases h
  · rw [if_neg hpush] at h
    cases hrow : plainRows.lookup b with
    | some i => rw [hrow] at h; cases h
    | none =>
      have hnone : inBlockByte p b = none := by rw [inBlockByte, opcodeRow, if_neg hpush, hrow]; split_ifs <;> rfl
      rw [classify_inBlock_iff, ← inBlockByte_eq_r95Category, hnone] at hclass
      cases hclass

/-- Settles O10: below the cost by the gas check, at or above it by what the decoder or the row of the byte gives. -/
theorem gasCheckBeforeInstruction : Obligations.GasCheckBeforeInstruction := by
  unfold Obligations.GasCheckBeforeInstruction
  intro s b cat hs hb hclass
  refine ⟨fun hgas => ?_, fun hgas => ?_⟩
  · have hstep : step s = .next (raise .outOfGas s.counted) :=
      hclass.elim (step_inBlock_outOfGas hs hb · hgas) (step_external_outOfGas hs hb · hgas)
    rw [hstep, raise, opByte_at_pc (s := s.counted) hb]
    rfl
  · obtain hin | hext := hclass
    · match hd : decode (s.code.drop s.pc) with
      | .ok (i, rest) =>
        exact .inl ⟨i, opcode_of_decode (drop_at_pc hb ▸ hd), step_inBlock_decoded hs hb hin hgas hd⟩
      | .error e =>
        have hstep := step_inBlock_undecoded hs hb hin hgas hd
        rw [drop_at_pc hb] at hd
        obtain ⟨⟨hlo, hhi⟩, hlen⟩ := cutOff_of_decode_error hin hd
        rw [List.length_drop] at hlen
        exact .inr (.inr ⟨hlo, hhi, by omega, hstep⟩)
    · match hrow : externalRow b with
      | some i =>
        have hi := (externals_rows (i, b) (externalRow_eq_some_iff.mp hrow)).2
        exact .inl ⟨i, hi, step_external_row hs hb hext hgas hrow⟩
      | none => exact .inr (.inl ⟨hext, step_external_unit hs hb hext hgas hrow⟩)

/-! The gas before the debit: no instruction writes it (R223). -/

/-- t has the gas of s, and the parameters its debit depends on. -/
structure KeepsGas (s t : State) : Prop where
  params : t.params = s.params
  gas : t.gas = s.gas

theorem InBlockEffect.keepsGas {s t : State} (h : InBlockEffect s t) : KeepsGas s t := by
  rw [h.only]; exact ⟨rfl, rfl⟩

theorem UnitEffect.keepsGas {s t : State} (h : UnitEffect s t) : KeepsGas s t := by
  rw [h.only]; exact ⟨rfl, rfl⟩

theorem CallEffect.keepsGas {s t : State} (h : CallEffect s t) : KeepsGas s t := by
  obtain ⟨s', hs', -, hu⟩ | ⟨m, env, code, cd, hm, -, rfl⟩ := h
  · rw [hs'] at hu
    exact ⟨hu.keepsGas.params, hu.keepsGas.gas⟩
  · rw [hm.only]
    exact ⟨rfl, rfl⟩

theorem exec_keepsGas {i : Instr} {s t : State} (hs : s.status = .running) (h : exec i s = .next t) : KeepsGas s t := by
  by_cases hi : inBlockCategory i = none
  · obtain ⟨u, hu, heffect⟩ := exec_external i s hi hs
    obtain rfl : u = t := Host.Outcome.next.inj (hu.symm.trans h)
    exact ⟨heffect.keepsGas.params, heffect.keepsGas.gas⟩
  · obtain ⟨u, hu, heffect⟩ := exec_inBlock i s hi
    obtain rfl : u = t := Host.Outcome.next.inj (hu.symm.trans h)
    exact heffect.keepsGas

theorem finishCall_keepsGas (b : Byte) (ok : Bool) (drawnOn s : State) : KeepsGas s (finishCall b ok drawnOn s) := by
  obtain ⟨s', hs', -, hu⟩ := unit_finishCall (Within.refl s) b ok drawnOn
  rw [hs'] at hu
  exact ⟨hu.keepsGas.params, hu.keepsGas.gas⟩

theorem KeepsGas.gasAfter {s t : State} (h : KeepsGas s t) (cat : GasCategory) : gasAfter t cat = gasAfter s cat := by
  rw [Claims.gasAfter, Claims.gasAfter, h.params, h.gas]

/-! The debit (R223). -/

theorem gasCategory_of_classify {p : Params} {b : Byte} {cat : GasCategory}
    (h : classify p b = .inBlock cat ∨ classify p b = .ext cat) : gasCategory p b = some cat := by
  obtain h | h := h <;> rw [gasCategory, h]

theorem debitAfter_complete {s t : State} {cat : GasCategory} (hcat : gasCategory s.params s.opByte = some cat)
    (hrun : t.status = .running) (hdepth : t.depth = s.depth) : debitAfter s t = { t with gas := gasAfter t cat } := by
  rw [debitAfter, if_pos ⟨hrun, hdepth⟩, hcat]
  exact chargeGas_eq cat t

theorem debitAfter_incomplete {s t : State} (h : t.status ≠ .running ∨ t.depth ≠ s.depth) : debitAfter s t = t :=
  if_neg fun ⟨hrun, hdepth⟩ => h.elim (· hrun) (· hdepth)

theorem debitAfter_no_category {s : State} (t : State) (hcat : gasCategory s.params s.opByte = none) :
    debitAfter s t = t := by
  rw [debitAfter, hcat]
  split_ifs <;> rfl

theorem debitAfter_gas_of_no_debit {s t : State} (h : KeepsGas s t) (hfree : ∀ cat, s.params.gasDebit.at cat = false)
    (before : State) : (debitAfter before t).gas = s.gas := by
  rw [← h.params] at hfree
  rw [debitAfter, ← h.gas]
  split_ifs
  · split
    · rw [chargeGas, hfree, if_neg Bool.false_ne_true]
    · rfl
  · rfl

/-- The end of a step at a byte of a category, once its work has led to u. -/
theorem debit_at_byte {s u : State} {b : Byte} {cat : GasCategory} (hb : s.code[s.pc]? = some b)
    (hcat : gasCategory s.params b = some cat) (hu : KeepsGas s.counted u) :
    (u.status = .running → u.depth = s.depth → debitAfter s.counted u = { u with gas := gasAfter s cat }) ∧
    (u.status ≠ .running ∨ u.depth ≠ s.depth → debitAfter s.counted u = u ∧ (debitAfter s.counted u).gas = s.gas) := by
  have hop : gasCategory s.counted.params s.counted.opByte = some cat := by
    rwa [State.counted_opByte, opByte_at_pc hb]
  refine ⟨fun hrun hdepth => ?_, fun h => ?_⟩
  · rw [debitAfter_complete hop hrun hdepth, hu.gasAfter]
    rfl
  · rw [debitAfter_incomplete (s := s.counted) h]
    exact ⟨rfl, hu.gas⟩

/-- A step with no debit in any category keeps the gas. -/
theorem step_gas_of_no_debit {s t : State} (hfree : ∀ cat, s.params.gasDebit.at cat = false) (h : step s = .next t) :
    t.gas = s.gas := by
  cases step_case h with
  | halt _ _ ht => rw [ht]; rfl
  | inBlock u b _ _ _ hu ht => rw [ht]; exact debitAfter_gas_of_no_debit hu.keepsGas hfree _
  | external u s' b cat _ _ _ hs' _ hu ht =>
    rw [hs'] at hu
    rw [ht]
    exact debitAfter_gas_of_no_debit hu.keepsGas hfree _
  | resume x n _ _ _ ht =>
    rw [ht]
    exact debitAfter_gas_of_no_debit (finishCall_keepsGas _ _ _ (frameRestore n s)) hfree _

theorem unitEffect_externalOp (b : Byte) (s : State) : UnitEffect s.drawn (externalOp b s) :=
  unit_applyReply (Within.refl _) _

/-- Settles O11: the work of a step keeps the gas, so what changes it is the debit alone. -/
theorem gasDebitAfterSuccess : Obligations.GasDebitAfterSuccess := by
  unfold Obligations.GasDebitAfterSuccess
  refine ⟨fun s t u b cat i rest hs hb hclass hgas hd hu ht => ?_, fun s t u b cat hs hb hclass hi hgas hu ht => ?_,
    fun s t hfree => step_gas_of_no_debit hfree⟩
  · obtain ⟨hin, hext, -⟩ := stepRunsDecodedInstruction s b cat hs hb hgas
    have hstep : step s = conclude s.counted (exec i s.counted) :=
      hclass.elim (hin · i rest hd) fun ⟨hc, hi⟩ => hext hc i rest hd hi
    rw [hu, conclude_next, ht] at hstep
    rw [Host.Outcome.next.inj hstep]
    exact debit_at_byte hb (gasCategory_of_classify (hclass.imp id And.left)) (exec_keepsGas (s := s.counted) hs hu)
  · have hunit : UnitEffect s.counted.drawn u := hu ▸ unitEffect_externalOp b s.counted
    have hdepth : u.depth = s.depth := by rw [hunit.only]; rfl
    have hstep := (stepRunsDecodedInstruction s b cat hs hb hgas).2.2 hclass hi
    rw [hu, conclude_next, ht] at hstep
    rw [Host.Outcome.next.inj hstep]
    obtain ⟨hdone, hfailed⟩ := debit_at_byte hb (gasCategory_of_classify (.inr hclass))
      ⟨hunit.keepsGas.params, hunit.keepsGas.gas⟩
    exact ⟨fun hrun => hdone hrun hdepth, fun h => hfailed (.inl h)⟩

/-! The resumption of CREATE and CREATE2 (spec/45_frames_external.md R255, R256). -/

theorem step_resume {s : State} {h : Halt} {below : List Snapshot} {n : Snapshot} (hs : s.status = .halted h)
    (hd : s.depth ≠ 0) (hsave : s.save = below ++ [n]) :
    step s = .next (debitAfter (frameRestore n s)
      (finishCall (frameRestore n s).opByte (decide (h = .success)) s (frameRestore n s))) := by
  have hturn : turn s = .settled (resumeCaller h s) := by simp only [turn, hs, if_neg hd]
  rw [step_of_settled hturn, resumeCaller, frameExit, hsave, List.getLast?_concat]
  rfl

/-- The bytes of CREATE and CREATE2 are no call's and in no table of R95. -/
theorem creates_bytes {i : Instr} {b : Byte} (h : (i, b) ∈ creates) :
    isCallByte b = false ∧ ∀ mode, r95Category mode b.toNat = none := by
  simp only [creates, List.mem_cons, Prod.mk.injEq, List.not_mem_nil, or_false] at h
  obtain ⟨-, rfl⟩ | ⟨-, rfl⟩ := h
  · exact ⟨rfl, fun _ => rfl⟩
  · exact ⟨rfl, fun _ => rfl⟩

theorem gasCategory_of_not_inBlock {p : Params} {b : Byte} (hin : r95Category p.push0Mode b.toNat = none) :
    gasCategory p b = p.extOpcodes.lookup b := by
  cases hext : p.extOpcodes.lookup b with
  | none =>
    rw [gasCategory, classify_unmapped hin hext]
    split_ifs <;> rfl
  | some cat =>
    refine gasCategory_of_classify (.inr ?_)
    simpa only [hin, hext] using decodeClassOfEveryByte p b

theorem finishCall_create {b : Byte} (hb : isCallByte b = false) (ok : Bool) (drawnOn s : State) :
    finishCall b ok drawnOn s = applyResume (Config.afterFrame b ok drawnOn) s.drawn := by
  rw [finishCall, hb, if_neg Bool.false_ne_true]

/-- The gas after work that kept it and stayed in its frame. -/
theorem debitAfter_gas {s t : State} {cat : GasCategory} (hcat : gasCategory s.params s.opByte = some cat)
    (ht : KeepsGas s t) (hdepth : t.depth = s.depth) :
    (debitAfter s t).gas = if t.status = .running then gasAfter s cat else s.gas := by
  split_ifs with hrun
  · rw [debitAfter_complete hcat hrun hdepth, ht.gasAfter]
  · rw [debitAfter_incomplete (.inl hrun), ht.gas]

/-- What a unit does to a state with its draw counted keeps the rules of R251. -/
theorem UnitEffect.keepsUnitRules {s t : State} (h : UnitEffect s.drawn t) : KeepsUnitRules s t where
  stack := h.stack
  mem hwf := ⟨h.mem hwf, h.size, ((Memory.wf_iff _).mp (h.mem hwf)).2⟩
  code := by rw [h.only]; rfl
  gas := by rw [h.only]; rfl
  count := by rw [h.only]; rfl
  frame := by rw [h.only]; exact ⟨rfl, rfl, rfl, rfl, rfl, rfl, rfl, rfl⟩
  ending := h.ending

theorem applyResume_keepsUnitRules (r : ResumeReply) (s : State) : KeepsUnitRules s (applyResume r s.drawn) :=
  UnitEffect.keepsUnitRules (unit_applyReply (.refl _) _)

/-- Settles O50: the unit's draw is applied to the restored state, whose byte decides the debit. -/
theorem createResumesWithDraw : Obligations.CreateResumesWithDraw := by
  unfold Obligations.CreateResumesWithDraw
  intro s h below n i b hs hd hsave hb hi
  obtain ⟨hcall, hr95⟩ := creates_bytes hi
  have hop : (frameRestore n s).opByte = b := opByte_at_pc hb
  have hcat : gasCategory (frameRestore n s).params (frameRestore n s).opByte = s.params.extOpcodes.lookup b := by
    rw [hop]
    exact gasCategory_of_not_inBlock (hr95 s.params.push0Mode)
  have hfinish := finishCall_create hcall (decide (h = .success)) s (frameRestore n s)
  have hpc := finishCall_pc b (decide (h = .success)) s (frameRestore n s)
  have hstep := step_resume hs hd hsave
  rw [hfinish] at hpc
  rw [hop, hfinish] at hstep
  have hrules := applyResume_keepsUnitRules (Config.afterFrame b (decide (h = .success)) s) (frameRestore n s)
  obtain ⟨hparams, -, -, -, -, -, hdepth, -⟩ := hrules.frame
  refine ⟨_, _, _, rfl, rfl, hstep, debitAfter_only _ _, hrules, hpc, fun cat hext => ?_, fun hext => ?_⟩
  · exact debitAfter_gas (hcat.trans hext) ⟨hparams, hrules.gas⟩ hdepth
  · rw [debitAfter_no_category _ (hcat.trans hext)]
    exact hrules.gas

end Sys2Proof.Machine
end

section
/-! Proofs for spec/45_frames_external.md: what an external opcode answers (R250, R251), the entry into a frame and its refusal
(R252 to R254, R257), and FRAME_EXIT to the caller of a call opcode (R255, R256, R259). A reply that asks for a frame and gets
as far as FRAME_ENTER is `enterFrame` on the operands taken (`applyCall_reaches`), whichever way that then goes. -/

namespace Sys2Proof.Machine

open Sys2Proof.Claims

/-! The caller after its inner frame (R255, R256, R259). -/

/-- A run that never goes below the depth of its start keeps the snapshots it started with, at the bottom of SAVE. -/
theorem RunsAbove.keeps_save {s u : State} (hrun : RunsAbove s.depth s u) (hi : s.Inv) : u.Inv ∧ s.save <+: u.save := by
  induction hrun with
  | refl => exact ⟨hi, List.prefix_rfl⟩
  | tail t u _ hstep hdepth ih =>
    obtain ⟨hti, hpre⟩ := ih
    have hui : u.Inv := everyStepKeepsInvariant t u hti hstep
    refine ⟨hui, ?_⟩
    obtain ⟨-, hsave⟩ | ⟨-, n, hsave⟩ | ⟨-, hsave, -⟩ := stepKeepsLowerSnapshots t u hti hstep
    · rwa [hsave]
    · rw [hsave]
      exact hpre.trans (List.prefix_append _ _)
    · have hlen : s.save.length ≤ t.save.dropLast.length := by
        rw [← hsave, hui.save_depth, hi.save_depth]
        exact hdepth
      rw [hsave]
      exact List.prefix_of_prefix_length_le hpre (List.dropLast_prefix _) hlen

/-- Back at the depth of its start, such a run has the snapshots it started with. -/
theorem RunsAbove.save_eq {s u : State} (hrun : RunsAbove s.depth s u) (hi : s.Inv) (hdepth : u.depth = s.depth) :
    u.save = s.save := by
  obtain ⟨hui, hpre⟩ := hrun.keeps_save hi
  exact (hpre.eq_of_length (by rw [hui.save_depth, hi.save_depth, hdepth])).symm

/-- The bytes of the call opcodes are calls', and in no table of R95. -/
theorem calls_bytes : ∀ r ∈ calls, isCallByte r.2 = true ∧ ∀ mode, r95Category mode r.2.toNat = none := by
  simp only [calls, List.forall_mem_cons]
  exact ⟨⟨rfl, fun _ => rfl⟩, ⟨rfl, fun _ => rfl⟩, ⟨rfl, fun _ => rfl⟩, ⟨rfl, fun _ => rfl⟩, List.forall_mem_nil _⟩

/-- A call whose caller has room for the flag ends with the flag on top, one byte on (R256). -/
theorem finishCall_call {b : Byte} (hb : isCallByte b = true) (ok : Bool) (drawnOn s : State)
    (hroom : s.stack.length < stackLimit) :
    finishCall b ok drawnOn s = { s with stack := (if ok then 1 else 0) :: s.stack, pc := s.pc + 1 } := by
  rw [finishCall, if_pos hb, pushResult_room _ _ hroom.ne, wordOfBool]

/-- The caller of a call opcode as FRAME_EXIT from s and the flag push leave it, before its debit. -/
def resumedCaller (h : Halt) (n : Snapshot) (s : State) : State :=
  { frameRestore n s with stack := (if h = .success then 1 else 0) :: n.stack, pc := n.pc + 1 }

/-- The step of a halted inner frame above a call opcode. -/
theorem step_resume_call {s : State} {h : Halt} {below : List Snapshot} {n : Snapshot} {i : Instr} {b : Byte}
    (hs : s.status = .halted h) (hd : s.depth ≠ 0) (hsave : s.save = below ++ [n]) (hb : n.code[n.pc]? = some b)
    (hi : (i, b) ∈ calls) (hroom : n.stack.length < stackLimit) :
    step s = .next (debitAfter (frameRestore n s) (resumedCaller h n s)) := by
  have hop : (frameRestore n s).opByte = b := opByte_at_pc hb
  have hfinish := finishCall_call (calls_bytes _ hi).1 (decide (h = .success)) s (frameRestore n s) hroom
  simp only [decide_eq_true_eq] at hfinish
  rw [step_resume hs hd hsave, hop, hfinish]
  rfl

/-- Settles O52: the run keeps the caller's snapshot at the top of SAVE, where the step after it finds it. -/
theorem callerIsolatedFromInnerRun : Obligations.CallerIsolatedFromInnerRun := by
  unfold Obligations.CallerIsolatedFromInnerRun
  intro s u t below n h i b hinv hsave hrun hdepth hu hb hi hstep
  have husave : u.save = below ++ [n] := (hrun.save_eq hinv hdepth).trans hsave
  have hlen : below.length + 1 = s.depth := by rw [← hinv.save_depth, hsave, List.length_append, List.length_singleton]
  have hgood : n.Good := hinv.saved n (by simp [hsave])
  rw [step_resume_call hu (by omega) husave hb hi hgood.stack_lt, debitAfter_only] at hstep
  have hbelow : (frameRestore n u).save = below := by rw [frameRestore_save, husave, List.dropLast_concat]
  have hudepth : (frameRestore n u).depth = below.length := by rw [frameRestore_depth]; omega
  obtain rfl := Host.Outcome.next.inj hstep
  exact ⟨rfl, rfl, rfl, rfl, rfl, rfl, rfl, rfl, rfl, rfl, hbelow, hbelow ▸ hudepth.symm, hudepth ▸ hlen⟩

/-- Settles O49: the flag push leaves the caller complete at its call opcode, whose category then decides the debit. -/
theorem frameExitResumesCaller : Obligations.FrameExitResumesCaller := by
  unfold Obligations.FrameExitResumesCaller
  intro s h below n i b cat hs hd hsave hb hi hext hroom
  have hcat : gasCategory (frameRestore n s).params (frameRestore n s).opByte = some cat := by
    rw [show (frameRestore n s).opByte = b from opByte_at_pc hb]
    exact (gasCategory_of_not_inBlock ((calls_bytes _ hi).2 s.params.push0Mode)).trans hext
  have hbelow : s.save.dropLast = below := by rw [hsave, List.dropLast_concat]
  rw [step_resume_call hs hd hsave hb hi hroom, ← hbelow]
  exact congrArg _ (debitAfter_complete (t := resumedCaller h n s) hcat rfl rfl)

/-! What an external opcode answers (R250, R251). -/

theorem exec_plainExternals (s : State) : ∀ r ∈ plainExternals, exec r.1 s = .next (externalOp r.2 s) := by
  simp only [plainExternals, List.forall_mem_cons]
  exact ⟨rfl, rfl, rfl, rfl, rfl, rfl, rfl, rfl, rfl, List.forall_mem_nil _⟩

theorem exec_callOps (s : State) : ∀ r ∈ calls ++ creates, exec r.1 s = .next (callOp r.2 s) := by
  simp only [calls, creates, List.cons_append, List.nil_append, List.forall_mem_cons]
  exact ⟨rfl, rfl, rfl, rfl, rfl, rfl, List.forall_mem_nil _⟩

/-- Settles O43: what a unit does is bounded by `UnitEffect`, on the state with its draw counted. -/
theorem externalOpsKeepUnitRules : Obligations.ExternalOpsKeepUnitRules := by
  unfold Obligations.ExternalOpsKeepUnitRules
  refine ⟨fun i b hi s => ?_, fun b s => (unitEffect_externalOp b s).keepsUnitRules⟩
  have hunit := unitEffect_externalOp b s
  exact ⟨externalOp b s, exec_plainExternals s _ hi, hunit.keepsUnitRules, by rw [hunit.only]; rfl, by rw [hunit.only]; rfl⟩

/-- A reply that pops operands that are there and pushes results that fit. -/
theorem applyReply_pops_pushes (s : State) (k : Nat) (vs : List Word) (ending : ExtEnding) (hk : k ≤ s.stack.length)
    (hfit : s.stack.length - k + vs.length ≤ stackLimit) :
    applyReply { actions := List.replicate k .pop ++ vs.map .push, ending := ending } s =
      finishWith ending (s.setStack (vs.reverse ++ s.stack.drop k)) := by
  rw [applyReply, runActions_pops k _ s _ hk, runActions_pushes vs _ _ (by simpa using hfit)]
  rfl

/-- Settles O44: the reply's primitives, then each of the three endings. -/
theorem externalReplyIsApplied : Obligations.ExternalReplyIsApplied := by
  unfold Obligations.ExternalReplyIsApplied
  refine ⟨fun i b hi s => exec_plainExternals s _ hi, fun s k vs ending hk hfit => ?_⟩
  rw [applyReply_pops_pushes s k vs ending hk hfit]
  cases ending <;> rfl

/-- The rules of R251 say nothing of the returndata, nor of the model's draw counter. -/
theorem UnitEffect.keepsUnitRules_of {s s' t : State} (hs' : s' = { s with draws := s'.draws, returndata := s'.returndata })
    (h : UnitEffect s' t) : KeepsUnitRules s t := by
  rw [hs'] at h
  exact
    { stack := h.stack
      mem := fun hwf => ⟨h.mem hwf, h.size, ((Memory.wf_iff _).mp (h.mem hwf)).2⟩
      code := by rw [h.only]
      gas := by rw [h.only]
      count := by rw [h.only]
      frame := by rw [h.only]; exact ⟨rfl, rfl, rfl, rfl, rfl, rfl, rfl, rfl⟩
      ending := h.ending }

/-- Settles O45: the two ways of `CallEffect`, a complete opcode and a frame entered from a state within the caller's. -/
theorem callOpsAnswer : Obligations.CallOpsAnswer := by
  unfold Obligations.CallOpsAnswer
  intro i b hi s hs
  refine ⟨callOp b s, exec_callOps s _ hi, ?_⟩
  obtain ⟨s', hs', -, hunit⟩ | ⟨m, env, code, cd, hm, hroom, ht⟩ := call_callOp b s hs
  · exact .inl (hunit.keepsUnitRules_of (by rw [hs']; rfl))
  · refine .inr ⟨m.snapshot, ?_⟩
    have hmem : s.mem.wf = true → m.mem.wf = true := hm.mem
    have hflag : s.stack.length ≤ 1024 → m.stack.length < 1024 := hroom
    rw [ht, hm.only]
    exact ⟨rfl, rfl, rfl, rfl, rfl, rfl, rfl, rfl, hmem, hflag, rfl, rfl, rfl, rfl, rfl, rfl, rfl, rfl, rfl, rfl⟩

/-! The operands of a call (R252). -/

/-- The memory after growth over each of some regions in order. -/
def Memory.coveringAll (m : Memory) (rs : List (Word × Word)) : Memory :=
  rs.foldl (fun m r => m.covering r.1.toNat r.2.toNat) m

/-- Growth writes the length alone. -/
theorem Memory.coveringAll_eq (m : Memory) (rs : List (Word × Word)) : m.coveringAll rs =
    ⟨rs.foldl (fun size r => grownSize size r.1.toNat r.2.toNat) m.size, m.cells⟩ := by
  induction rs generalizing m with
  | nil => rfl
  | cons r rs ih =>
    rw [Memory.coveringAll, List.foldl_cons, List.foldl_cons, ← Memory.covering_size]
    exact ih _

theorem Memory.coveringAll_readBytes (m : Memory) (rs : List (Word × Word)) (off n : Nat) :
    (m.coveringAll rs).readBytes off n = m.readBytes off n := by
  rw [Memory.coveringAll_eq]
  rfl

/-- Growth over regions that fit, one after the other. -/
theorem runActions_growth (rs : List (Word × Word)) (s : State) (k : State → State)
    (hfit : ∀ r ∈ rs, Fits s r.1.toNat r.2.toNat) :
    runActions (rs.map fun r => .memExtend r.1 r.2) s k = k (s.setMem (s.mem.coveringAll rs)) := by
  induction rs generalizing s with
  | nil => rfl
  | cons r rs ih =>
    obtain ⟨hr, hrs⟩ := List.forall_mem_cons.mp hfit
    rw [List.map_cons, runActions, extendThen_of_fits _ _ s _ hr]
    exact ih _ hrs

theorem operandsTaken_eq (f : CallFrame) (s : State) : operandsTaken f s =
    { s with stack := s.stack.drop (f.moreOperands + 1), mem := s.mem.coveringAll (regions f) } := by
  rw [operandsTaken, Memory.coveringAll_eq]

/-- A reply that gets as far as FRAME_ENTER: the frame is entered or refused with the operands taken. -/
theorem applyCall_reaches {f : CallFrame} {s : State} (h : ReachesFrame f s) (b : Byte) : applyCall b (.frame f) s =
    enterFrame b f.env (s.mem.readBytes f.inOff.toNat f.inSize.toNat) f.code (operandsTaken f s) := by
  obtain ⟨hpops, hfits⟩ := h
  obtain ⟨hgrown, hinput⟩ := List.forall_mem_append.mp hfits
  rw [List.forall_mem_singleton] at hinput
  have hregions : s.mem.coveringAll (regions f) =
      (s.mem.coveringAll f.grown).covering f.inOff.toNat f.inSize.toNat := List.foldl_concat _ _ _ _
  rw [operandsTaken_eq, hregions, applyCall, frameActions, runActions_pops _ _ s _ hpops, runActions_growth,
    readThen_of_fits, State.setMem_mem, State.setStack_mem, Memory.coveringAll_readBytes]
  · rfl
  · exact hinput
  · exact hgrown

/-- The operands taken leave room for the flag (R256). -/
theorem operandsTaken_room {f : CallFrame} {s : State} (h : ReachesFrame f s) (hle : s.stack.length ≤ stackLimit) :
    (operandsTaken f s).stack.length < stackLimit := by
  have := h.1
  rw [operandsTaken, List.length_drop]
  omega

/-! The entry into a frame (R253). -/

/-- What the unit binds, field by field. -/
theorem bindEnv_eq (b : Byte) (env : CallEnv) (s : State) : bindEnv b env s =
    { caller := if b = 0xF1 ∨ b = 0xFA then s.address else if b = 0xF2 ∨ b = 0xF4 then s.caller else env.caller
      address := if b = 0xF2 ∨ b = 0xF4 then s.address else env.address
      callvalue := env.callvalue } := by
  rw [bindEnv, callByte, staticcallByte, callcodeByte, delegatecallByte]
  by_cases hown : b = 0xF1 ∨ b = 0xFA
  · have hkept : ¬ (b = 0xF2 ∨ b = 0xF4) := by obtain rfl | rfl := hown <;> decide
    simp only [if_pos hown, if_neg hkept]
  · by_cases hkept : b = 0xF2 ∨ b = 0xF4
    · simp only [if_neg hown, if_pos hkept]
    · simp only [if_neg hown, if_neg hkept]

theorem innerInput_eq (b : Byte) (p : Params) (input : List Byte) :
    innerInput b p input = if b = 0xF0 ∨ b = 0xF5 ∨ p.innerCalldata = .empty then [] else input := by
  rw [innerInput, createByte, create2Byte]
  cases p.innerCalldata <;> simp

/-- FRAME_ENTER on the operands taken. -/
theorem frameEnter_operandsTaken (b : Byte) (f : CallFrame) (c : List Byte) (s : State) :
    frameEnter (bindEnv b f.env (operandsTaken f s)) c
      (innerInput b s.params (s.mem.readBytes f.inOff.toNat f.inSize.toNat)) (operandsTaken f s) = entered b f c s := by
  rw [bindEnv_eq, innerInput_eq]
  rfl

/-! The ways FRAME_ENTER can go (R253, R254, R257). -/

section
variable (b : Byte) (env : CallEnv) (input : List Byte) {s : State}

theorem depthExceeded_eq_false (h : ∀ d, s.params.maxCallDepth = some d → s.depth < d) : depthExceeded s = false := by
  rw [depthExceeded]
  split
  · next d hd => exact decide_eq_false (Nat.not_le.mpr (h d hd))
  · rfl

theorem depthExceeded_eq_true {d : Nat} (hmax : s.params.maxCallDepth = some d) (hd : d ≤ s.depth) :
    depthExceeded s = true := by
  rw [depthExceeded, hmax]
  exact decide_eq_true hd

theorem enterFrame_code (h : depthExceeded s = false) (c : List Byte) :
    enterFrame b env input (some c) s = frameEnter (bindEnv b env s) c (innerInput b s.params input) s := by
  simp only [enterFrame, h, Bool.false_eq_true, if_false]

/-- The frame of a target without code is restored as it is entered: only its empty returndata stays. -/
theorem enterFrame_codeless (h : depthExceeded s = false) (hs : s.status = .running) :
    enterFrame b env input none s =
      finishCall b s.params.nocodeOk (frameEnter (bindEnv b env s) [] (innerInput b s.params input) s)
        { s with returndata := [] } := by
  have hrestored : ({ s with returndata := [], status := .running } : State) = { s with returndata := [] } := by rw [← hs]
  simp only [enterFrame, h, Bool.false_eq_true, if_false, frameRestore_frameEnter, hrestored]

variable (code : Option (List Byte)) (h : depthExceeded s = true)
include h

theorem enterFrame_failFlag (hact : s.params.depthExceeded = .failFlag) :
    enterFrame b env input code s = finishCall b false s s := by
  simp only [enterFrame, h, hact, if_true]

theorem enterFrame_abort (hact : s.params.depthExceeded = .abortStackTooDeep) :
    enterFrame b env input code s = raise .stackTooDeep s := by
  simp only [enterFrame, h, hact, if_true]

end

/-- A create opcode's end: its draw applied, one byte on if in success (R256). -/
theorem finishCall_create_ends {i : Instr} {b : Byte} (hi : (i, b) ∈ creates) (ok : Bool) (drawnOn s : State) :
    finishCall b ok drawnOn s = applyResume (Config.afterFrame b ok drawnOn) s.drawn ∧
      ((finishCall b ok drawnOn s).status = .running → (finishCall b ok drawnOn s).pc = s.pc + 1) :=
  ⟨finishCall_create (creates_bytes hi).1 ok drawnOn s, finishCall_pc b ok drawnOn s⟩

/-- Settles O46: the operands taken, then FRAME_ENTER on them. -/
theorem callEntersFrame : Obligations.CallEntersFrame := by
  unfold Obligations.CallEntersFrame
  refine ⟨fun i b hi s => exec_callOps s _ hi, fun i b s f c _ hreach hcode hdepth => ?_⟩
  have hbelow : depthExceeded (operandsTaken f s) = false := depthExceeded_eq_false hdepth
  rw [applyCall_reaches hreach, hcode, enterFrame_code _ _ _ hbelow]
  exact frameEnter_operandsTaken b f c s

/-- Settles O47: at the limit the frame is refused on the operands taken, by each action. -/
theorem depthLimitRefusesFrame : Obligations.DepthLimitRefusesFrame := by
  unfold Obligations.DepthLimitRefusesFrame
  intro i b s d f hreach hle hmax hd
  have hexceeded : depthExceeded (operandsTaken f s) = true := depthExceeded_eq_true hmax hd
  rw [applyCall_reaches hreach]
  refine ⟨fun hflag hi => ?_, fun hflag hi => ?_, fun habort _ => ?_⟩
  · rw [enterFrame_failFlag _ _ _ _ hexceeded hflag]
    exact finishCall_call (calls_bytes _ hi).1 false _ _ (operandsTaken_room hreach hle)
  · rw [enterFrame_failFlag _ _ _ _ hexceeded hflag]
    exact finishCall_create_ends hi false _ _
  · exact enterFrame_abort _ _ _ _ hexceeded habort

/-- Settles O48: the empty frame is left at once, and the opcode ends told NOCODE_OK. -/
theorem codelessTargetNeverRuns : Obligations.CodelessTargetNeverRuns := by
  unfold Obligations.CodelessTargetNeverRuns
  intro i b s f hs hle hreach hcode hdepth
  have hbelow : depthExceeded (operandsTaken f s) = false := depthExceeded_eq_false hdepth
  have hcall : applyCall b (.frame f) s =
      finishCall b s.params.nocodeOk (entered b f [] s) { operandsTaken f s with returndata := [] } := by
    rw [applyCall_reaches hreach, hcode, enterFrame_codeless _ _ _ hbelow hs, ← frameEnter_operandsTaken]
    rfl
  rw [hcall]
  refine ⟨fun hi => ?_, fun hi => finishCall_create_ends hi _ _ _⟩
  exact finishCall_call (calls_bytes _ hi).1 _ _ _ (operandsTaken_room hreach hle)

end Sys2Proof.Machine
end

section
/-! Proofs for spec/60_exceptions.md: the kinds of error an in-block step can raise (R271), and the precision of an error halt
(R272 to R274, R278). -/

namespace Sys2Proof.Machine

theorem debitAfter_status (s t : State) : (debitAfter s t).status = t.status := by rw [debitAfter_only]

/-- An in-block instruction of a running frame that halts it with an error raised one of the kinds of R271. -/
theorem InBlockEffect.errorKind {s t : State} {e : ErrorKind} (h : InBlockEffect s t) (hs : s.status = .running)
    (he : t.status = .halted (.error e)) : e.code ∈ [0, 1, 2, 3, 4, 12, 13, 14, 15, 16] := by
  obtain ⟨hrun, -⟩ | ⟨e', hcode, he', -⟩ := h.ending
  · simp [hrun, hs] at he
  · obtain rfl : e' = e := by simpa [he'] using he
    exact hcode

/-- Settles O42: of the four ways a step can go, only an in-block opcode's work leaves a running frame at such a byte, and the
debit after it writes no status. -/
theorem inBlockErrorKinds : Obligations.InBlockErrorKinds := by
  unfold Obligations.InBlockErrorKinds
  intro s t b e hs hb hclass h he
  cases step_case h with
  | halt _ hend _ => simp [hb] at hend
  | inBlock u _ _ _ _ hu ht => exact hu.errorKind hs (by rw [← debitAfter_status, ← ht, he])
  | external _ _ b' cat _ hb' hext =>
    obtain rfl : b = b' := Option.some.inj (hb.symm.trans hb')
    exact absurd hext (hclass cat)
  | resume x _ hx => simp [hs] at hx

/-- A step that halts a running frame debits nothing (spec/44_control.md R223, R273). -/
theorem step_gas_of_halted {s t : State} (hs : s.status = .running) (h : step s = .next t) (ht : t.status ≠ .running) :
    t.gas = s.gas := by
  cases step_case h with
  | halt _ _ hhalt => rw [hhalt]; rfl
  | inBlock u _ _ _ _ hu hdebit =>
    rw [hdebit, debitAfter_status] at ht
    rw [hdebit, debitAfter_halted _ _ ht, hu.keepsGas.gas]
    rfl
  | external u s' _ _ _ _ _ hs' _ hu hdebit =>
    rw [hdebit, debitAfter_status] at ht
    rw [hdebit, debitAfter_halted _ _ ht, hu.keepsGas.gas, hs']
    rfl
  | resume x _ hx => simp [hs] at hx

/-- Settles O55: only an opcode that stays in its frame can halt a running frame with an error, which it latches at its own
program counter. -/
theorem errorHaltsArePrecise : Obligations.ErrorHaltsArePrecise := by
  unfold Obligations.ErrorHaltsArePrecise
  intro s t e hs h he
  cases stepShape_of_step h with
  | halts _ ht => simp [ht] at he
  | stays _ hlt ht =>
    obtain hrun | ⟨e', he', hpc, hreport⟩ := ht.ending
    · simp [hrun, hs] at he
    · obtain rfl : e' = e := by simpa [he'] using he
      have hb : s.code[s.pc]? = some s.code[s.pc] := List.getElem?_eq_getElem hlt
      have hgas : t.gas = s.gas := step_gas_of_halted hs h (by simp [he])
      rw [State.counted_opByte, opByte_at_pc hb] at hreport
      exact ⟨s.code[s.pc], hb, hpc, ht.code, ht.count, hgas, ht.depth, ht.save, hreport⟩
  | enters _ _ _ _ _ _ _ _ _ ht => simp [ht] at he
  | returns _ hx => exact absurd hs hx

end Sys2Proof.Machine
end

section
/-! The start of a run (spec/70_reset_and_hazards.md R300): the state the host's start leaves, and that it meets the machine's
invariant, from which `everyStepKeepsInvariant` (O58) carries it on. -/

namespace Sys2Proof.Machine

/-- Settles O56: the start state writes out every field, and the empty memory has length 0 and no cells. -/
theorem startState : Obligations.StartState := by
  unfold Obligations.StartState
  intro h
  rfl

/-- A start state is good whatever the host supplies: its stack, memory and SAVE are empty, its program counter is 0, which no
code is too short for, and a running frame owes no report. -/
theorem State.start_inv (h : HostStart) : (State.start h).Inv where
  stack_le := Nat.zero_le stackLimit
  mem_wf := Memory.empty_wf
  pc_le := Nat.zero_le h.code.length
  save_depth := rfl
  saved := List.forall_mem_nil Snapshot.Good
  report := State.reportMatches_of_not_failed (State.not_failed_of_running rfl)

/-- Settles O57: the reset state is the start of one particular host. -/
theorem startIsGood : Obligations.StartIsGood := by
  unfold Obligations.StartIsGood
  exact ⟨State.start_inv, State.start_inv .atReset⟩

end Sys2Proof.Machine
end
